-- ==== Sys2Proof/Word.lean ====
section
/-! DEFINITION. The word types of the block (00_scope.md R7): every value is unsigned; registers are 32 bits wide,
buffer RAM bytes 8 bits, bus addresses 17 bits (20_memory.md R51). -/

namespace Sys2Proof

/-- A u8: one byte of buffer RAM or of a frame. -/
abbrev Byte := BitVec 8

/-- A u16: the CRC register, the repeat count, the data-frame index. -/
abbrev Half := BitVec 16

/-- A u32: a register of the register window, a command word. -/
abbrev Word := BitVec 32

/-- A byte offset from the block's base on the host bus, 17 bits wide (20_memory.md R51). -/
abbrev BusAddr := BitVec 17

/-- A 2-bit symbol of the bit-to-symbol mapper (44_ir_engine.md R181). -/
abbrev Symbol := BitVec 2

end Sys2Proof
end

