-- ==== Sys2Proof/Syntax.lean ====
section
/-! DEFINITION. The commands of the block: one constructor per row of spec/opcode_table.json (30_encoding.md R72). A
command carries no operand: operands are in the operand registers (R71). -/

namespace Sys2Proof

/-- The eleven commands, in the opcode table's order. -/
inductive Instr where
  /-- NOP, OPCODE 0x00 (40_command_common.md R97). -/
  | nop
  /-- CRC, OPCODE 0x01 (41_checksum.md R102). -/
  | crc
  /-- CRC_CHECK, OPCODE 0x02 (41_checksum.md R103). -/
  | crcCheck
  /-- BUILD_PING, OPCODE 0x10 (43_frame_builder.md R122). -/
  | buildPing
  /-- BUILD_MCU, OPCODE 0x11 (43_frame_builder.md R123). -/
  | buildMcu
  /-- BUILD_RAW, OPCODE 0x12 (43_frame_builder.md R124). -/
  | buildRaw
  /-- BUILD_DATA, OPCODE 0x13 (43_frame_builder.md R126). -/
  | buildData
  /-- COMPRESS, OPCODE 0x20 (42_compressor.md R114). -/
  | compress
  /-- PACK, OPCODE 0x21 (42_compressor.md R116). -/
  | pack
  /-- TX, OPCODE 0x30 (44_ir_engine.md R190). -/
  | tx
  /-- QUEUE, OPCODE 0x31 (44_ir_engine.md R191). -/
  | queue
  deriving DecidableEq, Repr

end Sys2Proof
end

