-- ==== Sys2Proof/Decode.lean ====
section
/-! DEFINITION. The decoder of 30_encoding.md R73, total on every 32-bit word and rejecting by name, and after it the
encoder of R70 and R72. A command is one 32-bit value written to CMD; no command is stored in memory (R74). -/

namespace Sys2Proof

/-- Why a command word is illegal (R73). -/
inductive DecodeError where
  /-- w[31:8] ≠ 0: the RSVD field is not zero. -/
  | reservedBits
  /-- RSVD is zero and w[7:0] is no OPCODE of R72. -/
  | reservedOpcode
  deriving DecidableEq, Repr

/-- OPCODE, bits 7:0 (R70). -/
def commandOpcode (w : Word) : Byte := w.extractLsb' 0 8

/-- RSVD, bits 31:8 (R70). -/
def commandRsvd (w : Word) : BitVec 24 := w.extractLsb' 8 24

/-- The opcode map of R72. -/
def opcodeMap : List (Byte × Instr) :=
  [(0x00#8, .nop), (0x01#8, .crc), (0x02#8, .crcCheck),
   (0x10#8, .buildPing), (0x11#8, .buildMcu), (0x12#8, .buildRaw), (0x13#8, .buildData),
   (0x20#8, .compress), (0x21#8, .pack),
   (0x30#8, .tx), (0x31#8, .queue)]

/-- The command of an OPCODE value, if R72 lists it. -/
def instrOfOpcode (op : Byte) : Option Instr :=
  (opcodeMap.find? fun row => row.1 == op).map Prod.snd

/-- Decoding a command word (R73): RSVD is checked first, then OPCODE. -/
def decode (w : Word) : Except DecodeError Instr :=
  if commandRsvd w ≠ 0#24 then .error .reservedBits
  else
    match instrOfOpcode (commandOpcode w) with
    | some i => .ok i
    | none => .error .reservedOpcode

/-- The OPCODE of a command (R72, written from the table and not from `opcodeMap`). -/
def opcode : Instr → Byte
  | .nop => 0x00#8
  | .crc => 0x01#8
  | .crcCheck => 0x02#8
  | .buildPing => 0x10#8
  | .buildMcu => 0x11#8
  | .buildRaw => 0x12#8
  | .buildData => 0x13#8
  | .compress => 0x20#8
  | .pack => 0x21#8
  | .tx => 0x30#8
  | .queue => 0x31#8

/-- The command word: OPCODE in bits 7:0 under a zero RSVD field (R70). -/
def encode (i : Instr) : Word := 0#24 ++ opcode i

/-- The command the decoder reads from a row of spec/opcode_table.json: a command is one 32-bit word, bit 0 the least
significant (R70). A number that needs more than 32 bits is no command. -/
def decodeTableWord (nbits w : Nat) : Option Instr :=
  if w % 2 ^ nbits < 2 ^ 32 then
    match decode (BitVec.ofNat 32 (w % 2 ^ nbits)) with
    | .ok i => some i
    | .error _ => none
  else none

end Sys2Proof
end

