-- ==== Sys2Proof/Config.lean ====
section
/-! DEFINITION. What an implementation fixes: the OPEN parameters of 00_scope.md R6, and the one value the spec leaves
open altogether (R8's `decimal` on a substring that holds a non-digit). R6 asks that a model take every OPEN parameter as
an argument: the parameters are the plain data `Params`, carried unchanged in `Machine.State.params` (log 1), so a
statement over all states is a statement over all parameter values. -/

namespace Sys2Proof

/-- The OPEN parameters of 00_scope.md R6 (and BLOCK_BASE of 20_memory.md R51). -/
structure Params where
  /-- MEM_SIZE: bytes of buffer RAM. -/
  memSize : Nat
  /-- MAX_FRAME: the largest frame TX and QUEUE accept. -/
  maxFrame : Nat
  /-- Q_DEPTH: transmit queue entries. -/
  qDepth : Nat
  /-- BLOCK_BASE: where the platform puts the block. No rule of the block reads it: bus addresses are offsets from it. -/
  blockBase : Nat
  /-- F_CLK: frequency of `clk` in Hz. Only durations in seconds depend on it (44_ir_engine.md R194). -/
  fClk : Nat
  /-- CAR_HI: clocks the carrier is high in one period. -/
  carHi : Nat
  /-- CAR_LO: clocks the carrier is low in one period. -/
  carLo : Nat
  /-- BURST_N: carrier periods in one symbol burst. -/
  burstN : Nat
  /-- PAUSE[0]: clocks of the pause after a burst for the symbol value 0. -/
  pause0 : Nat
  /-- PAUSE[1]. -/
  pause1 : Nat
  /-- PAUSE[2]. -/
  pause2 : Nat
  /-- PAUSE[3]. -/
  pause3 : Nat
  /-- TERM_N: carrier periods in the burst that ends a pass. -/
  termN : Nat
  /-- IFD: clocks of the inter-frame delay that ends a pass. -/
  ifd : Nat
  /-- CRC_XOROUT: the CRC's final XOR (90_conflicts.md C1). -/
  crcXorOut : Half
  /-- RLE_LITERAL_EVERY_RUN (90_conflicts.md C2). -/
  rleLiteralEveryRun : Bool
  /-- RLE_CODE_UNIT_RUNS (90_conflicts.md C2). -/
  rleCodeUnitRuns : Bool
  deriving DecidableEq, Repr

/-- The parameter values `State.reset` carries: the spec's defaults where R6 gives one (MEM_SIZE, MAX_FRAME, CRC_XOROUT,
the two RLE flags); where it gives none, the example configuration EX1 of 44_ir_engine.md for the timing, and
Q_DEPTH = 4, F_CLK = 8 MHz, BLOCK_BASE = 0. DESIGN CHOICE, unsafe: a statement that rests on one of the latter values is
about this configuration only (log 2). -/
def Params.specDefault : Params where
  memSize := 65536
  maxFrame := 64
  qDepth := 4
  blockBase := 0
  fClk := 8000000
  carHi := 2
  carLo := 2
  burstN := 3
  pause0 := 5
  pause1 := 9
  pause2 := 7
  pause3 := 13
  termN := 3
  ifd := 20
  crcXorOut := 0x0000#16
  rleLiteralEveryRun := true
  rleCodeUnitRuns := false

/-- R8's `decimal` on a substring that holds a non-digit: the spec leaves it to the host as a parameter
(93_implementation_defined.md I14, 91_not_in_source.md N10). A free value: nothing constrains it (log 10). -/
opaque Config.decimalNonDigit : List Char → Nat

end Sys2Proof
end

