-- ==== Sys2Proof/Machine/State.lean ====
section
/-! DEFINITION. The state of the block as plain data (10_state.md R20), the ways a step stops, and the state after
reset (10_state.md R43). -/

namespace Sys2Proof.Machine

/-- Why a command is rejected (60_exceptions.md R220). -/
inductive RejectCode where
  /-- code 1: CMD[31:8] ≠ 0 or a reserved OPCODE. -/
  | opcode
  /-- code 2: a length operand illegal for the opcode. -/
  | length
  /-- code 3: a region runs past MEM_SIZE. -/
  | range
  /-- code 4: input and output regions share a byte. -/
  | overlap
  /-- code 5: TX while the engine is Active. -/
  | busy
  /-- code 6: QUEUE while Q holds Q_DEPTH entries. -/
  | qfull
  deriving DecidableEq, Repr

/-- Where a transmission comes from (10_state.md R39). -/
inductive Origin where
  | direct
  | queued
  deriving DecidableEq, Repr

/-- The TX engine (10_state.md R39): idle, or transmitting its private copy `frame` with `repeats` passes, `t` clocks of
the waveform already emitted. -/
inductive Engine where
  | idle
  | active (origin : Origin) (frame : List Byte) (repeats : Half) (t : Nat)
  deriving DecidableEq, Repr

/-- One entry of the transmit queue (10_state.md R40). -/
structure QEntry where
  frame : List Byte
  repeats : Half
  deriving DecidableEq, Repr

/-- Buffer RAM (20_memory.md R52): the written bytes, addresses strictly rising. An unlisted address has no value: nothing
has written it (R67; log 4). -/
abbrev Memory := List Host.Cell

/-- The registers of the register window (10_state.md R21). -/
inductive Reg where
  | id
  | status
  | cmd
  | framesSent
  | src
  | len
  | dst
  | plid
  | frm
  | repeatCount
  | index
  | res0
  | res1
  | res2
  deriving DecidableEq, Repr

/-- The width of a host transaction: 1, 2 or 4 bytes (20_memory.md R55, R56). -/
inductive AccessSize where
  | byte
  | half
  | word
  deriving DecidableEq, Repr

/-- What the host presents at one clock edge with `rst` low (44_ir_engine.md R189: at most one transaction). -/
inductive HostSlot where
  /-- no transaction completes at this edge -/
  | idle
  /-- MemRead(addr, size) (20_memory.md R55) -/
  | read (addr : BusAddr) (size : AccessSize)
  /-- MemWrite(addr, size, value) (20_memory.md R56) -/
  | write (addr : BusAddr) (size : AccessSize) (value : Word)
  deriving DecidableEq, Repr

/-- The response OK of a completed host transaction (00_scope.md R5); ERROR is the fault `busError`. -/
inductive Response where
  /-- OK(data) of a read -/
  | readOk (value : Word)
  /-- OK of a write -/
  | writeOk
  deriving DecidableEq, Repr

/-- Which item of 20_memory.md R57 forbids a host transaction. -/
inductive BusErrorCause where
  /-- item 1: the address is unmapped -/
  | unmapped
  /-- item 2: a register access that is not an aligned 32-bit access -/
  | registerAccess
  /-- item 3: a misaligned RAM access -/
  | misaligned
  /-- item 4: the access runs past the end of RAM -/
  | pastEnd
  deriving DecidableEq, Repr

/-- Why a step stops with a fault. -/
inductive Fault where
  /-- Raised by a host transaction that 20_memory.md R57 forbids ("In a model, a bus error is a fault of the host's step,
  not a state of the block", 60_exceptions.md R221). Safe: the block goes on after the response ERROR, the model stops. -/
  | busError (cause : BusErrorCause) (addr : BusAddr)
  /-- Raised by a host read or a command that reads the RAM byte at `addr`, which nothing has written ("A model treats a
  read of such a byte, by the host or by a command, as a fault", 20_memory.md R67). Safe. -/
  | unwrittenRam (addr : Nat)
  deriving DecidableEq, Repr

/-- Why a step is refused. -/
inductive Refusal where
  /-- Raised by exec's arm of a command that has no meaning yet. Safe: the model stops. No arm raises it now. -/
  | notModelled (mnemonic : String)
  deriving DecidableEq, Repr

/-- The whole state: the block's own (10_state.md R20), then the model's own fields (parameters and the host side). -/
structure State where
  /-- SRC (R30) -/
  src : Word
  /-- LEN (R31) -/
  len : Word
  /-- DST (R32) -/
  dst : Word
  /-- PLID (R27) -/
  plid : Word
  /-- FRM (R33): the 17 bits that have storage; bits 31:17 read 0 and ignore writes (R38; log 11) -/
  frm : BitVec 17
  /-- REPEAT (R34): bits 15:0 (R38; log 11) -/
  repeatCount : Half
  /-- INDEX (R35): bits 15:0 (R38; log 11) -/
  index : Half
  /-- RES0 (R37) -/
  res0 : Word
  /-- RES1 (R37) -/
  res1 : Word
  /-- RES2 (R37) -/
  res2 : Word
  /-- FRAMES_SENT (R29) -/
  framesSent : Word
  /-- STATUS.ERRCODE (R24) -/
  errcode : BitVec 4
  /-- STATUS.MATCH (R25) -/
  matchBit : Bool
  /-- the TX engine (R39) -/
  eng : Engine
  /-- the transmit queue, head first (R40) -/
  queue : List QEntry
  /-- buffer RAM (20_memory.md R52) -/
  ram : Memory
  /-- the model's own: the implementation parameters (00_scope.md R6; log 1); no step changes them -/
  params : Params
  /-- the model's own: the level of `rst` at the coming edges, empty meaning low (log 5) -/
  rstIn : List Bool
  /-- the model's own: what the host presents at the coming edges with `rst` low, empty meaning nothing (log 5) -/
  host : List HostSlot
  /-- the model's own: the response of the host transaction of the last edge, if one completed (log 7) -/
  resp : Option Response
  deriving DecidableEq, Repr

/-- The state right after reset (10_state.md R43, 70_reset_and_hazards.md R250): every register 0, engine Idle, queue
empty; RAM as after power-up, nothing written (R67; log 4); the parameters of `Params.specDefault` (log 2); no input
presented (logs 5 and 9). -/
def State.reset : State where
  src := 0#32
  len := 0#32
  dst := 0#32
  plid := 0#32
  frm := 0#17
  repeatCount := 0#16
  index := 0#16
  res0 := 0#32
  res1 := 0#32
  res2 := 0#32
  framesSent := 0#32
  errcode := 0#4
  matchBit := false
  eng := .idle
  queue := []
  ram := []
  params := Params.specDefault
  rstIn := []
  host := []
  resp := none

end Sys2Proof.Machine
end

