-- ==== Sys2Proof/Machine/Ops.lean ====
section
/-! DEFINITION. The named operations over memory and registers that every command shares: buffer RAM byte by byte
(00_scope.md R7, 40_command_common.md R98), the region checks (R93, R94), rejecting and accepting a command
(60_exceptions.md R224, 40_command_common.md R95, R96), and byte-order helpers (20_memory.md R53, R54). -/

namespace Sys2Proof.Machine

/-- The answer of a command or of a step. -/
abbrev Result := Host.Outcome State Fault Refusal

/-! ## Buffer RAM -/

/-- `M[a]`: the byte at `a`, or none if nothing has written it (20_memory.md R67). -/
def Memory.read : Memory → Nat → Option Byte
  | [], _ => none
  | (k, b) :: m, a => if k = a then some b else Memory.read m a

/-- `M[a] <- v`, keeping the addresses strictly rising. -/
def Memory.write : Memory → Nat → Byte → Memory
  | [], a, v => [(a, v)]
  | (k, b) :: m, a, v =>
    if a < k then (a, v) :: (k, b) :: m
    else if a = k then (a, v) :: m
    else (k, b) :: Memory.write m a v

/-- `Bytes(a, n)` (00_scope.md R7): the bytes, or the address of the first one that nothing has written. -/
def Memory.readBytes (m : Memory) : Nat → Nat → Except Nat (List Byte)
  | _, 0 => .ok []
  | a, n + 1 =>
    match m.read a with
    | none => .error a
    | some b =>
      match Memory.readBytes m (a + 1) n with
      | .error e => .error e
      | .ok l => .ok (b :: l)

/-- `WriteBytes(a, l)` (00_scope.md R7): `M[a+i] <- l[i]` for every i < |l|. -/
def Memory.writeBytes (m : Memory) : Nat → List Byte → Memory
  | _, [] => m
  | a, b :: l => Memory.writeBytes (m.write a b) (a + 1) l

/-- The canonical form: addresses strictly rising. (An unlisted address has no value, so no entry can equal it.) -/
def Memory.wf : Memory → Bool
  | [] => true
  | [_] => true
  | (a, _) :: (b, v) :: m => decide (a < b) && Memory.wf ((b, v) :: m)

/-- Every listed address is an address of buffer RAM (20_memory.md R52). -/
def Memory.below (m : Memory) (size : Nat) : Bool := m.all fun c => decide (c.1 < size)

/-! ## Byte order -/

/-- Byte `k` of a word: bits 8k+7 : 8k (20_memory.md R53). -/
def wordByte (w : Word) (k : Nat) : Byte := w.extractLsb' (8 * k) 8

/-- The first `n` bytes of a word, low byte first (20_memory.md R53, R56). -/
def wordBytes (w : Word) (n : Nat) : List Byte := (List.range n).map (wordByte w)

/-- The value of a little-endian byte list: Σ l[i] << 8i (20_memory.md R55). -/
def leValue : List Byte → Nat
  | [] => 0
  | b :: l => b.toNat + 256 * leValue l

/-- A u16 as two bytes, low byte first (20_memory.md R54 items 1 and 2). -/
def halfBytes (c : Half) : List Byte := [c.extractLsb' 0 8, c.extractLsb' 8 8]

/-- A u16 from its low and high byte. -/
def halfOfBytes (lo hi : Byte) : Half := hi ++ lo

/-! ## Region checks -/

/-- `InRange(a, n)`: a + n ≤ MEM_SIZE in unbounded integers (40_command_common.md R93). -/
abbrev inRange (p : Params) (a n : Nat) : Prop := a + n ≤ p.memSize

/-- `Overlap(a, m, b, n)`: the regions [a, a+m) and [b, b+n) share a byte (40_command_common.md R94). -/
abbrev overlap (a m b n : Nat) : Prop := 0 < m ∧ 0 < n ∧ a < b + n ∧ b < a + m

/-! ## Rejecting and accepting -/

/-- The error code of a rejection (60_exceptions.md R220). -/
def RejectCode.code : RejectCode → BitVec 4
  | .opcode => 1#4
  | .length => 2#4
  | .range => 3#4
  | .overlap => 4#4
  | .busy => 5#4
  | .qfull => 6#4

/-- ERRCODE <- v (10_state.md R24). -/
def setErr (v : BitVec 4) (s : State) : State := { s with errcode := v }

/-- `raise Reject(code)` (60_exceptions.md R224): ERRCODE takes the code and nothing else changes. -/
def reject (c : RejectCode) (s : State) : Result := .next (setErr c.code s)

/-- What every accepted command other than NOP does last: all three result registers are written (40_command_common.md
R95) and ERRCODE <- 0 (R96). -/
def accept (r0 r1 r2 : Word) (s : State) : State :=
  { s with res0 := r0, res1 := r1, res2 := r2, errcode := 0#4 }

/-- `WriteBytes(a, l)` on the block's buffer RAM. -/
def storeBytes (a : Nat) (l : List Byte) (s : State) : State := { s with ram := s.ram.writeBytes a l }

/-- Run `k` on `Bytes(a, n)`; a byte that nothing has written is the fault of 20_memory.md R67. -/
def withBytes (s : State) (a n : Nat) (k : List Byte → Result) : Result :=
  match s.ram.readBytes a n with
  | .ok l => k l
  | .error e => .fault (.unwrittenRam e)

/-- A count as a u32 register value (`RES0 <- n`). -/
def countWord (n : Nat) : Word := BitVec.ofNat 32 n

end Sys2Proof.Machine
end

