-- ==== Sys2Proof/Machine/Operands.lean ====
section
/-! DEFINITION. The operands of the commands (30_encoding.md R71): each is read from an operand register as it stands when
CMD is written. SRC, LEN, DST and INDEX are used as unbounded non-negative integers (00_scope.md R7). -/

namespace Sys2Proof.Machine

/-- SRC: the input region's first byte address (10_state.md R30). -/
def opSrc (s : State) : Nat := s.src.toNat

/-- LEN: the input region's length (10_state.md R31). -/
def opLen (s : State) : Nat := s.len.toNat

/-- DST: the output region's first byte address (10_state.md R32). -/
def opDst (s : State) : Nat := s.dst.toNat

/-- FRM.PROTO = FRM[7:0] (10_state.md R33). -/
def frmProto (s : State) : Byte := s.frm.extractLsb' 0 8

/-- FRM.CMDB = FRM[15:8] (10_state.md R33). -/
def frmCmdb (s : State) : Byte := s.frm.extractLsb' 8 8

/-- FRM.PP16 = FRM[16] (10_state.md R33). -/
def frmPp16 (s : State) : Bool := s.frm.getLsbD 16

/-- INDEX as an integer (10_state.md R35). -/
def opIndex (s : State) : Nat := s.index.toNat

/-- Identifier byte k = PLID[8k+7 : 8k] (10_state.md R27). -/
def plidByte (s : State) (k : Nat) : Byte := wordByte s.plid k

/-- Bytes the optional PP16 header takes: 4 or none (43_frame_builder.md R121). -/
def headerLen (pp16 : Bool) : Nat := if pp16 then 4 else 0

end Sys2Proof.Machine
end

