-- ==== Sys2Proof/Machine/Checksum.lean ====
section
/-! DEFINITION. The CRC-16 checker (41_checksum.md): the CRC function, CRC and CRC_CHECK. -/

namespace Sys2Proof.Machine

/-- CRC_INIT (00_scope.md R6). -/
def crcInit : Half := 0x8408#16

/-- CRC_POLY, reflected (00_scope.md R6). -/
def crcPoly : Half := 0x8408#16

/-- One shift/XOR step of R100. -/
def crcBit (r : Half) : Half := if r.getLsbD 0 then (r >>> 1) ^^^ crcPoly else r >>> 1

/-- Eight shift/XOR steps (R100). -/
def crcShift8 (r : Half) : Half := crcBit (crcBit (crcBit (crcBit (crcBit (crcBit (crcBit (crcBit r)))))))

/-- One byte of R100: it enters the low end, then eight steps. -/
def crcByte (r : Half) (b : Byte) : Half := crcShift8 (r ^^^ b.setWidth 16)

/-- `CRC16(l)` of R100, with the final XOR of the parameters. -/
def crc16 (p : Params) (l : List Byte) : Half := l.foldl crcByte crcInit ^^^ p.crcXorOut

/-- PP16_HEADER (00_scope.md R6). -/
def pp16Header : List Byte := [0x00#8, 0x00#8, 0x00#8, 0x40#8]

/-- CRC (R102): RES0 <- CRC16 of the region [SRC, SRC+LEN). -/
def execCrc (s : State) : Result :=
  if ¬ inRange s.params (opSrc s) (opLen s) then reject .range s
  else
    withBytes s (opSrc s) (opLen s) fun l =>
      .next (accept ((crc16 s.params l).setWidth 32) 0#32 0#32 s)

/-- The header check of R103: no header expected, or the frame begins with PP16_HEADER. -/
def headerOk (pp16 : Bool) (f : List Byte) : Bool := !pp16 || f.take 4 == pp16Header

/-- The body of a terminated frame: everything between the header and the 2-byte trailer (R103). -/
def frameBody (pp16 : Bool) (f : List Byte) : List Byte :=
  (f.take (f.length - 2)).drop (headerLen pp16)

/-- The little-endian trailer of a terminated frame (R103). -/
def frameTrailer (f : List Byte) : Half :=
  halfOfBytes (f.getD (f.length - 2) 0#8) (f.getD (f.length - 1) 0#8)

/-- CRC_CHECK (R103): verify a terminated frame; MATCH is header and CRC both right. -/
def execCrcCheck (s : State) : Result :=
  if opLen s < headerLen (frmPp16 s) + 2 then reject .length s
  else if ¬ inRange s.params (opSrc s) (opLen s) then reject .range s
  else
    withBytes s (opSrc s) (opLen s) fun f =>
      let hdrOk := headerOk (frmPp16 s) f
      let c := crc16 s.params (frameBody (frmPp16 s) f)
      let t := frameTrailer f
      .next (accept (c.setWidth 32) (t.setWidth 32) (if hdrOk then 1#32 else 0#32)
        { s with matchBit := hdrOk && c == t })

end Sys2Proof.Machine
end

