-- ==== Sys2Proof/Machine/Compressor.lean ====
section
/-! DEFINITION. The run-length / unary-prefix compressor and the sample packer (42_compressor.md): COMPRESS and PACK. -/

namespace Sys2Proof.Machine

/-- RLE_MAX_RUN (00_scope.md R6). -/
def rleMaxRun : Nat := 16383

/-- The maximal stretches of consecutive equal samples, in order, each with its length (R110, before splitting). -/
def stretches : List Byte → List (Byte × Nat)
  | [] => []
  | v :: rest =>
    match stretches rest with
    | [] => [(v, 1)]
    | (w, n) :: more => if v = w then (w, n + 1) :: more else (v, 1) :: (w, n) :: more

/-- Splitting a run (R110): floor(n / 16383) pieces of 16383, then the remainder if it is not zero. -/
def splitRun (r : Byte × Nat) : List (Byte × Nat) :=
  List.replicate (r.2 / rleMaxRun) (r.1, rleMaxRun) ++
    (if r.2 % rleMaxRun = 0 then [] else [(r.1, r.2 % rleMaxRun)])

/-- `Runs(S)` (R110). -/
def runs (l : List Byte) : List (Byte × Nat) := (stretches l).flatMap splitRun

/-- `bitlength(n)` for n ≥ 1 (00_scope.md R7). -/
def bitLength (n : Nat) : Nat := Nat.log2 n + 1

/-- One coded bit as one sample (R111). -/
def bitSample (b : Bool) : Byte := if b then 0x01#8 else 0x00#8

/-- `Gamma(n)` (R111): k−1 zero samples, then the k bits of n, most significant first. -/
def gamma (n : Nat) : List Byte :=
  List.replicate (bitLength n - 1) 0x00#8 ++
    (List.range (bitLength n)).reverse.map fun k => bitSample (n.testBit k)

/-- The loop of R112 over the pieces; `first` says that no piece has been coded yet (m = 0). -/
def rlePieces (p : Params) : Bool → List (Byte × Nat) → List Byte
  | _, [] => []
  | first, (v, n) :: more =>
    (if p.rleLiteralEveryRun || first then [v] else []) ++
      (if 1 < n ∨ p.rleCodeUnitRuns = true then gamma n else []) ++
      rlePieces p false more

/-- `RLE(S)` (R112). -/
def rle (p : Params) (l : List Byte) : List Byte := rlePieces p true (runs l)

/-- The used size of a compressed stream: rounded up to a multiple of 8 samples (R113). -/
def roundUp8 (n : Nat) : Nat := 8 * ((n + 7) / 8)

/-- COMPRESS (R114): the coded stream padded with 0x00, or the raw samples when coding does not shorten them (R113). -/
def execCompress (s : State) : Result :=
  if opLen s = 0 ∨ opLen s % 8 ≠ 0 then reject .length s
  else if ¬ inRange s.params (opSrc s) (opLen s) ∨ ¬ inRange s.params (opDst s) (opLen s) then reject .range s
  else if overlap (opSrc s) (opLen s) (opDst s) (opLen s) then reject .overlap s
  else
    withBytes s (opSrc s) (opLen s) fun l =>
      let e := rle s.params l
      if e.length < opLen s then
        .next (accept (countWord (roundUp8 e.length)) (countWord e.length) 1#32
          (storeBytes (opDst s) (e ++ List.replicate (roundUp8 e.length - e.length) 0x00#8) s))
      else
        .next (accept (countWord (opLen s)) (countWord e.length) 0#32 (storeBytes (opDst s) l s))

/-- One packed byte of eight samples, the first in bit 7; a nonzero sample counts as 1 (R115). -/
def packByte (l : List Byte) : Byte :=
  BitVec.ofNat 8 (l.foldl (fun acc x => 2 * acc + (if x = 0x00#8 then 0 else 1)) 0)

/-- The first `k` packed bytes of a sample list. -/
def packBytes : Nat → List Byte → List Byte
  | 0, _ => []
  | k + 1, l => packByte (l.take 8) :: packBytes k (l.drop 8)

/-- `Pack(S)` (R115): |S| / 8 bytes. -/
def packSamples (l : List Byte) : List Byte := packBytes (l.length / 8) l

/-- PACK (R116). -/
def execPack (s : State) : Result :=
  if opLen s = 0 ∨ opLen s % 8 ≠ 0 then reject .length s
  else if ¬ inRange s.params (opSrc s) (opLen s) ∨ ¬ inRange s.params (opDst s) (opLen s / 8) then reject .range s
  else if overlap (opSrc s) (opLen s) (opDst s) (opLen s / 8) then reject .overlap s
  else
    withBytes s (opSrc s) (opLen s) fun l =>
      .next (accept (countWord (opLen s / 8)) 0#32 0#32 (storeBytes (opDst s) (packSamples l) s))

end Sys2Proof.Machine
end

