-- ==== Sys2Proof/Machine/Control.lean ====
section
/-! DEFINITION. NOP (40_command_common.md R97). -/

namespace Sys2Proof.Machine

/-- NOP (R97): ERRCODE <- 0; RES0 to RES2 and everything else unchanged. Never rejected. -/
def execNop (s : State) : Result := .next (setErr 0#4 s)

end Sys2Proof.Machine
end

