-- ==== Sys2Proof/Machine/FrameBuilder.lean ====
section
/-! DEFINITION. The frame encoder (43_frame_builder.md): BUILD_PING, BUILD_MCU, BUILD_RAW and BUILD_DATA. -/

namespace Sys2Proof.Machine

/-- `RevPLID` (R120): identifier bytes 3, 2, 1, 0. -/
def revPlid (s : State) : List Byte := [plidByte s 3, plidByte s 2, plidByte s 1, plidByte s 0]

/-- `Terminate(body, pp16)` (R121): the optional header in front, the CRC of the unshifted body behind, low byte first. -/
def terminate (p : Params) (body : List Byte) (pp16 : Bool) : List Byte :=
  (if pp16 then pp16Header else []) ++ body ++ halfBytes (crc16 p body)

/-- |Terminate(body, pp16)| for a body of `n` bytes (R121, R127). -/
def frameLen (n : Nat) (pp16 : Bool) : Nat := n + 2 + headerLen pp16

/-- The end of every BUILD command: terminate the body, write the frame at DST, report its length and two more results. -/
def storeFrame (body : List Byte) (r1 r2 : Word) (s : State) : Result :=
  let f := terminate s.params body (frmPp16 s)
  .next (accept (countWord f.length) r1 r2 (storeBytes (opDst s) f s))

/-- The 32-byte body of a ping frame (R122). -/
def pingBody (s : State) : List Byte :=
  [0x85#8] ++ revPlid s ++ [0x17#8, 0x01#8, 0x00#8, 0x00#8, 0x00#8] ++ List.replicate 22 0x01#8

/-- BUILD_PING (R122): no input region. -/
def execBuildPing (s : State) : Result :=
  if ¬ inRange s.params (opDst s) (frameLen 32 (frmPp16 s)) then reject .range s
  else storeFrame (pingBody s) 0#32 0#32 s

/-- A frame whose body is `lead` followed by the payload [SRC, SRC+LEN): the shared part of R123 and R124. -/
def buildFromPayload (lead : List Byte) (s : State) : Result :=
  if ¬ inRange s.params (opSrc s) (opLen s) ∨
      ¬ inRange s.params (opDst s) (frameLen (lead.length + opLen s) (frmPp16 s)) then reject .range s
  else if overlap (opSrc s) (opLen s) (opDst s) (frameLen (lead.length + opLen s) (frmPp16 s)) then reject .overlap s
  else withBytes s (opSrc s) (opLen s) fun payload => storeFrame (lead ++ payload) 0#32 0#32 s

/-- The ten bytes before an MCU frame's payload (R123). -/
def mcuLead (s : State) : List Byte :=
  [0x85#8] ++ revPlid s ++ [0x34#8, 0x00#8, 0x00#8, 0x00#8] ++ [frmCmdb s]

/-- BUILD_MCU (R123). -/
def execBuildMcu (s : State) : Result := buildFromPayload (mcuLead s) s

/-- The six bytes before a raw frame's payload (R124). -/
def rawLead (s : State) : List Byte := [frmProto s] ++ revPlid s ++ [frmCmdb s]

/-- BUILD_RAW (R124). -/
def execBuildRaw (s : State) : Result := buildFromPayload (rawLead s) s

/-- DATA_CHUNK: payload bytes of a data frame (00_scope.md R6). -/
def dataChunk : Nat := 20

/-- The byte count of chunk `i` of a buffer of `b` bytes: min(20, b − 20 i) (R125). -/
def chunkCount (b i : Nat) : Nat := min dataChunk (b - dataChunk * i)

/-- The number of data frames of a buffer of `b` bytes: ceil(b / 20) (R125). -/
def chunkFrames (b : Nat) : Nat := (b + (dataChunk - 1)) / dataChunk

/-- BUILD_DATA (R126). The range and overlap checks take the whole buffer [SRC, SRC+B); the bytes read are the chunk's. -/
def execBuildData (s : State) : Result :=
  let b := opLen s
  let i := opIndex s
  let c := chunkCount b i
  let lout := frameLen (12 + c) (frmPp16 s)
  if b ≤ dataChunk * i then reject .length s
  else if ¬ inRange s.params (opSrc s) b ∨ ¬ inRange s.params (opDst s) lout then reject .range s
  else if overlap (opSrc s) b (opDst s) lout then reject .overlap s
  else
    withBytes s (opSrc s + dataChunk * i) c fun chunk =>
      storeFrame (mcuLead s ++ halfBytes s.index ++ chunk) (countWord c) (countWord (chunkFrames b)) s

end Sys2Proof.Machine
end

