-- ==== Sys2Proof/Machine/IrEngine.lean ====
section
/-! DEFINITION. The bit-to-symbol mapper and the IR carrier-burst timing engine (44_ir_engine.md): the waveform and the
output, the engine's steps, TX and QUEUE. -/

namespace Sys2Proof.Machine

/-! ## The waveform -/

/-- The four symbols of a byte, most significant first (R181). -/
def byteSymbols (b : Byte) : List Symbol :=
  [b.extractLsb' 6 2, b.extractLsb' 4 2, b.extractLsb' 2 2, b.extractLsb' 0 2]

/-- `Symbols(F)` (R181). -/
def symbols (f : List Byte) : List Symbol := f.flatMap byteSymbols

/-- PAUSE[s] (00_scope.md R6). -/
def pauseOf (p : Params) (s : Symbol) : Nat :=
  if s = 0#2 then p.pause0 else if s = 1#2 then p.pause1 else if s = 2#2 then p.pause2 else p.pause3

/-- A waveform: segments (level, clocks), level true meaning 1 (R182). -/
abbrev Waveform := List (Bool × Nat)

/-- `Burst(n)` (R182). -/
def burst (p : Params) (n : Nat) : Waveform :=
  (List.replicate n [(true, p.carHi), (false, p.carLo)]).flatten

/-- The segments of one symbol: its burst, then the pause its value selects (R183). -/
def symbolWave (p : Params) (s : Symbol) : Waveform := burst p p.burstN ++ [(false, pauseOf p s)]

/-- `Pass(F)` (R183). -/
def passWave (p : Params) (f : List Byte) : Waveform :=
  (symbols f).flatMap (symbolWave p) ++ burst p p.termN ++ [(false, p.ifd)]

/-- `Wave(F, R)`: the pass R times (R184). -/
def wave (p : Params) (f : List Byte) (r : Half) : Waveform :=
  (List.replicate r.toNat (passWave p f)).flatten

/-- `Level(W, t)`: the level of the segment that covers clock t (R184). Past the waveform's end, where R184 defines
nothing and no active engine stands (10_state.md R41), it is 0 (log 12). -/
def level : Waveform → Nat → Bool
  | [], _ => false
  | (v, n) :: w, t => if t < n then v else level w (t - n)

/-- CAR_HI + CAR_LO: clocks of one carrier period (R182). -/
def carrierPeriod (p : Params) : Nat := p.carHi + p.carLo

/-- `D(F, R)`, the formula of R184. -/
def duration (p : Params) (f : List Byte) (r : Half) : Nat :=
  r.toNat *
    (4 * f.length * p.burstN * carrierPeriod p + ((symbols f).map (pauseOf p)).sum + p.termN * carrierPeriod p + p.ifd)

/-- The output pin during the clock cycle after an edge whose state is `s` (R185). -/
def irOut (s : State) : Bool :=
  match s.eng with
  | .idle => false
  | .active _ f r t => level (wave s.params f r) t

/-! ## Engine steps -/

/-- Launching from the head of the queue on an idle engine, by R186 and R187: an entry of duration 0 completes at once
(it leaves the queue and is counted), the first other entry becomes active. Answers engine, queue and FRAMES_SENT. -/
def startQueue (p : Params) : List QEntry → Word → Engine × List QEntry × Word
  | [], n => (.idle, [], n)
  | e :: q, n =>
    if duration p e.frame e.repeats = 0 then startQueue p q (n + 1#32)
    else (.active .queued e.frame e.repeats 0, e :: q, n)

/-- The queue after a completion: the head is released if the transmission was a queued one (R187). -/
def releaseHead : Origin → List QEntry → List QEntry
  | .direct, q => q
  | .queued, q => q.tail

/-- Set the engine, the queue and the counter. -/
def setEngine (r : Engine × List QEntry × Word) (s : State) : State :=
  { s with eng := r.1, queue := r.2.1, framesSent := r.2.2 }

/-- `Complete(o)` (R187): count the frame (R192), release the entry, start the next queued frame if there is one. -/
def complete (o : Origin) (s : State) : State :=
  setEngine (startQueue s.params (releaseHead o s.queue) (s.framesSent + 1#32)) s

/-- `Launch(o, F, R)` (R186). -/
def launch (o : Origin) (f : List Byte) (r : Half) (s : State) : State :=
  if duration s.params f r = 0 then complete o s else { s with eng := .active o f r 0 }

/-- `Tick` (R188): one rising edge of `clk` with `rst` low. -/
def tick (s : State) : State :=
  match s.eng with
  | .idle => s
  | .active o f r t =>
    if t + 1 < duration s.params f r then { s with eng := .active o f r (t + 1) } else complete o s

/-! ## Commands -/

/-- TX (R190): transmit a private copy of the frame now. -/
def execTx (s : State) : Result :=
  if opLen s = 0 ∨ s.params.maxFrame < opLen s then reject .length s
  else if ¬ inRange s.params (opSrc s) (opLen s) then reject .range s
  else if s.eng ≠ .idle then reject .busy s
  else
    withBytes s (opSrc s) (opLen s) fun f =>
      .next (launch .direct f s.repeatCount (accept 0#32 0#32 0#32 s))

/-- The last two lines of QUEUE's launch (R191): an idle engine starts the head of the queue. -/
def startIfIdle (s : State) : State :=
  match s.eng, s.queue with
  | .idle, e :: _ => launch .queued e.frame e.repeats s
  | _, _ => s

/-- QUEUE (R191): append a private copy of the frame; RES0 is the occupancy after the command. -/
def execQueue (s : State) : Result :=
  if opLen s = 0 ∨ s.params.maxFrame < opLen s then reject .length s
  else if ¬ inRange s.params (opSrc s) (opLen s) then reject .range s
  else if s.queue.length = s.params.qDepth then reject .qfull s
  else
    withBytes s (opSrc s) (opLen s) fun f =>
      let s' := startIfIdle { s with queue := s.queue ++ [⟨f, s.repeatCount⟩] }
      .next (accept (countWord s'.queue.length) 0#32 0#32 s')

end Sys2Proof.Machine
end

