-- ==== Sys2Proof/Machine/Dispatch.lean ====
section
/-! DEFINITION. One arm per command of spec/opcode_table.json. -/

namespace Sys2Proof.Machine

def exec (i : Instr) (s : State) : Host.Outcome State Fault Refusal :=
  match i with
  | .nop => Sys2Proof.Machine.execNop s
  | .crc => Sys2Proof.Machine.execCrc s
  | .crcCheck => Sys2Proof.Machine.execCrcCheck s
  | .buildPing => Sys2Proof.Machine.execBuildPing s
  | .buildMcu => Sys2Proof.Machine.execBuildMcu s
  | .buildRaw => Sys2Proof.Machine.execBuildRaw s
  | .buildData => Sys2Proof.Machine.execBuildData s
  | .compress => Sys2Proof.Machine.execCompress s
  | .pack => Sys2Proof.Machine.execPack s
  | .tx => Sys2Proof.Machine.execTx s
  | .queue => Sys2Proof.Machine.execQueue s

end Sys2Proof.Machine
end

