-- ==== Sys2Proof/Machine/Flags.lean ====
section
/-! DEFINITION. The status flags (10_state.md R22 to R26, R42): all but ERRCODE and MATCH are views of the engine and the
queue. -/

namespace Sys2Proof.Machine

/-- STATUS.BUSY: the engine is Active (10_state.md R23). -/
def busy (s : State) : Bool :=
  match s.eng with
  | .idle => false
  | .active _ _ _ _ => true

/-- STATUS.ERR: ERRCODE ≠ 0 (10_state.md R22, R24). -/
def errFlag (s : State) : Bool := s.errcode != 0#4

/-- STATUS.QCOUNT: the queue's occupancy, 8 bits (10_state.md R26). -/
def qcount (s : State) : Byte := BitVec.ofNat 8 s.queue.length

/-- STATUS.QFULL: |Q| = Q_DEPTH (10_state.md R26). -/
def qfull (s : State) : Bool := s.queue.length == s.params.qDepth

/-- STATUS as the host reads it (10_state.md R22): 31:17 zero, 16 QFULL, 15:8 QCOUNT, 7:4 ERRCODE, 3 zero, 2 MATCH,
1 ERR, 0 BUSY. -/
def statusWord (s : State) : Word :=
  0#15 ++ BitVec.ofBool (qfull s) ++ qcount s ++ s.errcode ++ 0#1 ++ BitVec.ofBool s.matchBit ++
    BitVec.ofBool (errFlag s) ++ BitVec.ofBool (busy s)

end Sys2Proof.Machine
end

