-- ==== Sys2Proof/Machine/Bus.lean ====
section
/-! DEFINITION. The host bus (20_memory.md): the register window (10_state.md R21), the address map, the checks of R57,
MemRead and MemWrite, issuing a command (40_command_common.md R90), and one clock edge (44_ir_engine.md R189,
70_reset_and_hazards.md R250). -/

namespace Sys2Proof.Machine

/-! ## The register window -/

/-- The ID register's constant value (10_state.md R21). -/
def idValue : Word := 0x45534C07#32

/-- The byte offset of each register (10_state.md R21). -/
def Reg.offset : Reg → BusAddr
  | .id => 0x00#17
  | .status => 0x04#17
  | .cmd => 0x08#17
  | .framesSent => 0x0C#17
  | .src => 0x10#17
  | .len => 0x14#17
  | .dst => 0x18#17
  | .plid => 0x1C#17
  | .frm => 0x20#17
  | .repeatCount => 0x24#17
  | .index => 0x28#17
  | .res0 => 0x30#17
  | .res1 => 0x34#17
  | .res2 => 0x38#17

/-- Every register of the window (10_state.md R21). -/
def allRegs : List Reg :=
  [.id, .status, .cmd, .framesSent, .src, .len, .dst, .plid, .frm, .repeatCount, .index, .res0, .res1, .res2]

/-- The register at an offset; 0x2C and 0x3C are unmapped (10_state.md R21). -/
def regAt (a : BusAddr) : Option Reg := allRegs.find? fun r => r.offset == a

/-- What the host reads from a register (20_memory.md R55): CMD reads 0 (10_state.md R28); reserved bits read 0 (R38). -/
def readReg (s : State) : Reg → Word
  | .id => idValue
  | .status => statusWord s
  | .cmd => 0#32
  | .framesSent => s.framesSent
  | .src => s.src
  | .len => s.len
  | .dst => s.dst
  | .plid => s.plid
  | .frm => s.frm.setWidth 32
  | .repeatCount => s.repeatCount.setWidth 32
  | .index => s.index.setWidth 32
  | .res0 => s.res0
  | .res1 => s.res1
  | .res2 => s.res2

/-- Issuing a command (40_command_common.md R90): an illegal word is rejected with OPCODE (30_encoding.md R73). -/
def cmdIssue (w : Word) (s : State) : Result :=
  match decode w with
  | .ok i => exec i s
  | .error _ => reject .opcode s

/-- A host write to a register (20_memory.md R56): reserved fields and read-only registers ignore it; CMD issues. -/
def writeReg (r : Reg) (v : Word) (s : State) : Result :=
  match r with
  | .id => .next s
  | .status => .next s
  | .cmd => cmdIssue v s
  | .framesSent => .next s
  | .src => .next { s with src := v }
  | .len => .next { s with len := v }
  | .dst => .next { s with dst := v }
  | .plid => .next { s with plid := v }
  | .frm => .next { s with frm := v.setWidth 17 }
  | .repeatCount => .next { s with repeatCount := v.setWidth 16 }
  | .index => .next { s with index := v.setWidth 16 }
  | .res0 => .next s
  | .res1 => .next s
  | .res2 => .next s

/-! ## Host transactions -/

/-- The number of bytes of a transaction (20_memory.md R55). -/
def AccessSize.bytes : AccessSize → Nat
  | .byte => 1
  | .half => 2
  | .word => 4

/-- Where the buffer RAM begins on the bus (20_memory.md R51). -/
def ramBase : Nat := 0x10000

/-- What a legal transaction reaches: a register, or the RAM byte addresses from `a` on. -/
inductive BusTarget where
  | reg (r : Reg)
  | ram (a : Nat)
  deriving DecidableEq, Repr

/-- The address map of 20_memory.md R51 and the refusals of R57. -/
def busTarget (p : Params) (addr : BusAddr) (size : AccessSize) : Except BusErrorCause BusTarget :=
  if addr.toNat < 0x40 then
    match regAt (addr &&& 0x1FFFC#17) with
    | none => .error .unmapped
    | some r => if size = .word ∧ addr.toNat % 4 = 0 then .ok (.reg r) else .error .registerAccess
  else if addr.toNat < ramBase ∨ ramBase + p.memSize ≤ addr.toNat then .error .unmapped
  else if addr.toNat % size.bytes ≠ 0 then .error .misaligned
  else if p.memSize < addr.toNat - ramBase + size.bytes then .error .pastEnd
  else .ok (.ram (addr.toNat - ramBase))

/-- `MemRead(addr, n)` (20_memory.md R55): a value or a fault; no state changes. -/
def memRead (s : State) (addr : BusAddr) (size : AccessSize) : Except Fault Word :=
  match busTarget s.params addr size with
  | .error c => .error (.busError c addr)
  | .ok (.reg r) => .ok (readReg s r)
  | .ok (.ram a) =>
    match s.ram.readBytes a size.bytes with
    | .ok l => .ok (countWord (leValue l))
    | .error e => .error (.unwrittenRam e)

/-- `MemWrite(addr, n, v)` (20_memory.md R56). -/
def memWrite (addr : BusAddr) (size : AccessSize) (v : Word) (s : State) : Result :=
  match busTarget s.params addr size with
  | .error c => .fault (.busError c addr)
  | .ok (.reg r) => writeReg r v s
  | .ok (.ram a) => .next (storeBytes a (wordBytes v size.bytes) s)

/-! ## One clock edge -/

/-- The host's part of an edge with `rst` low, after the Tick (44_ir_engine.md R189): the slot at the head of the
schedule, if any; the response goes to `resp`. -/
def hostEdge (s : State) : Result :=
  match s.host with
  | [] => .next { s with resp := none }
  | .idle :: h => .next { s with host := h, resp := none }
  | .read addr size :: h =>
    match memRead s addr size with
    | .ok v => .next { s with host := h, resp := some (.readOk v) }
    | .error f => .fault f
  | .write addr size v :: h => memWrite addr size v { s with host := h, resp := some .writeOk }

/-- An edge with `rst` high (70_reset_and_hazards.md R250): every piece of state takes its reset value, RAM is unchanged
(R252), no Tick runs and no transaction completes (a presented one waits: log 6). -/
def resetEdge (s : State) : State :=
  { State.reset with ram := s.ram, params := s.params, rstIn := s.rstIn, host := s.host }

/-- One rising edge of `clk` (44_ir_engine.md R189). -/
def clockEdge (s : State) : Result :=
  match s.rstIn with
  | true :: r => .next (resetEdge { s with rstIn := r })
  | false :: r => hostEdge (tick { s with rstIn := r })
  | [] => hostEdge (tick s)

/-- A CMD write of `w` presented at the next edge, with `rst` low there. -/
def presentCommand (w : Word) (s : State) : State :=
  { s with rstIn := false :: s.rstIn, host := .write Reg.cmd.offset .word w :: s.host }

end Sys2Proof.Machine
end

