-- ==== Sys2Proof/Machine/HostRef.lean ====
section
/-! DEFINITION. The host reference function `deriveIdentifier` (00_scope.md R8): host side, not part of the block. Strings
are lists of characters. -/

namespace Sys2Proof.Machine

/-- Every character is a decimal digit. -/
def allDigits (x : List Char) : Bool := x.all Char.isDigit

/-- `decimal(x)` (R8): the unsigned value of decimal digits; on any other substring the host's parameter (log 10). -/
def decimal (x : List Char) : Nat :=
  if allDigits x then x.foldl (fun acc c => 10 * acc + (c.toNat - '0'.toNat)) 0 else Config.decimalNonDigit x

/-- The 32-bit value v of R8: (low + (high << 16)) mod 2^32. -/
def identifierValue (s : List Char) : Word :=
  BitVec.ofNat 32 (decimal ((s.take 7).drop 2) + decimal ((s.take 12).drop 7) * 65536)

/-- `deriveIdentifier(s)` (R8): byte 0 is bits 15:8, byte 1 bits 7:0, byte 2 bits 31:24, byte 3 bits 23:16; a string whose
length is not 17 gives the zero identifier. -/
def deriveIdentifier (s : List Char) : List Byte :=
  if s.length ≠ 17 then [0x00#8, 0x00#8, 0x00#8, 0x00#8]
  else
    let v := identifierValue s
    [v.extractLsb' 8 8, v.extractLsb' 0 8, v.extractLsb' 24 8, v.extractLsb' 16 8]

/-- The PLID register value of an identifier: byte k is bits 8k+7 : 8k (10_state.md R27). -/
def plidOfIdentifier (l : List Byte) : Word :=
  l.getD 3 0#8 ++ l.getD 2 0#8 ++ l.getD 1 0#8 ++ l.getD 0 0#8

end Sys2Proof.Machine
end

