-- ==== Sys2Proof/WellFormed.lean ====
section
/-! DEFINITION. Well-formedness: the constraints of 00_scope.md R6 on the OPEN parameters, and the two checks of
30_encoding.md R70 and R73 on a command word. An `Instr` has no field, so every `Instr` is well-formed. -/

namespace Sys2Proof

/-- MEM_SIZE is a power of two with 64 ≤ MEM_SIZE ≤ 65536 (R6). -/
def Params.memSizeOk (p : Params) : Bool :=
  (List.range 11).any fun k => p.memSize == 2 ^ (k + 6)

/-- MAX_FRAME ≥ 38 (R6). -/
def Params.maxFrameOk (p : Params) : Bool := decide (38 ≤ p.maxFrame)

/-- 1 ≤ Q_DEPTH ≤ 255 (R6). -/
def Params.qDepthOk (p : Params) : Bool := decide (1 ≤ p.qDepth) && decide (p.qDepth ≤ 255)

/-- CAR_HI, CAR_LO, BURST_N and TERM_N are each at least 1 (R6). -/
def Params.burstOk (p : Params) : Bool :=
  decide (1 ≤ p.carHi) && decide (1 ≤ p.carLo) && decide (1 ≤ p.burstN) && decide (1 ≤ p.termN)

/-- The carrier period (CAR_HI + CAR_LO) / F_CLK is below one microsecond (R6). -/
def Params.carrierOk (p : Params) : Bool := decide ((p.carHi + p.carLo) * 1000000 < p.fClk)

/-- The four PAUSE values are pairwise distinct (R6). -/
def Params.pausesOk (p : Params) : Bool :=
  decide [p.pause0, p.pause1, p.pause2, p.pause3].Nodup

/-- The parameters meet every constraint of R6. -/
def Params.wf (p : Params) : Bool :=
  p.memSizeOk && p.maxFrameOk && p.qDepthOk && p.burstOk && p.carrierOk && p.pausesOk

/-- The OPCODE values that 30_encoding.md R72 lists; every other value is reserved. -/
def listedOpcodes : List Byte :=
  [0x00#8, 0x01#8, 0x02#8, 0x10#8, 0x11#8, 0x12#8, 0x13#8, 0x20#8, 0x21#8, 0x30#8, 0x31#8]

/-- A command word is legal when RSVD (bits 31:8) is 0 and OPCODE (bits 7:0) is listed (R70, R73). -/
def commandWordOk (w : Word) : Bool :=
  w.extractLsb' 8 24 == 0#24 && listedOpcodes.contains (w.extractLsb' 0 8)

end Sys2Proof
end

