-- ==== Sys2Proof/Safety.lean ====
section
/-! DEFINITION. What the claims about runs are stated in: the invariants of the block (10_state.md R39 to R41,
60_exceptions.md R220) with the canonical form of buffer RAM, and when a step goes on. -/

namespace Sys2Proof.Machine

/-- A frame the engine or the queue may hold: 1 ≤ |F| ≤ MAX_FRAME (10_state.md R39, R40). -/
def frameOk (p : Params) (f : List Byte) : Prop := 1 ≤ f.length ∧ f.length ≤ p.maxFrame

/-- The invariants of the block that every step keeps. -/
structure State.Inv (s : State) : Prop where
  /-- buffer RAM is in canonical form -/
  ramCanonical : s.ram.wf = true
  /-- every written byte lies in buffer RAM (20_memory.md R52) -/
  ramInRange : s.ram.below s.params.memSize = true
  /-- an idle engine has an empty queue (10_state.md R41 item 1) -/
  idleEmpty : s.eng = .idle → s.queue = []
  /-- a queued transmission is the head of the queue (R41 item 2) -/
  queuedIsHead : ∀ f r t, s.eng = .active .queued f r t → ∃ q, s.queue = ⟨f, r⟩ :: q
  /-- the clock position is inside the waveform (R41 item 3) -/
  position : ∀ o f r t, s.eng = .active o f r t → t < duration s.params f r
  /-- the queue holds at most Q_DEPTH entries (R41 item 4) -/
  queueBound : s.queue.length ≤ s.params.qDepth
  /-- the engine's frame is a legal frame (R39) -/
  engFrame : ∀ o f r t, s.eng = .active o f r t → frameOk s.params f
  /-- every queued frame is a legal frame (R40) -/
  queueFrames : ∀ e ∈ s.queue, frameOk s.params e.frame
  /-- ERRCODE is one of the codes of 60_exceptions.md R220: 7 to 15 are never produced -/
  errcodeLegal : s.errcode.toNat ≤ 6

/-- The step goes on: it stops neither with a fault nor with a refusal. -/
def State.GoesOn (s : State) : Prop := ∃ t, step s = .next t

/-- The state in which the command of the next edge executes, when `rst` is low there (44_ir_engine.md R189): after the
edge's Tick, with that edge's inputs consumed and the response OK of a write. -/
def State.atCommand (s : State) : State :=
  { tick { s with rstIn := s.rstIn.tail } with host := s.host.tail, resp := some .writeOk }

end Sys2Proof.Machine
end

