-- ==== Sys2Proof/Certificates/Slice0/Obligations.lean ====
section
/-! DEFINITION. The statements for the provers, from the numbered rules of spec/. -/

open Sys2Proof Sys2Proof.Machine

/-! ## Encoding -/

/-- 30_encoding.md R72 and the table V-ENC of 95_test_vectors.md: the eleven command words, and ten words that are none. -/
def Obligations.CommandWordsDecodeAsTabled : Prop :=
  decode 0x00000000#32 = .ok .nop ∧ decode 0x00000001#32 = .ok .crc ∧ decode 0x00000002#32 = .ok .crcCheck ∧
  decode 0x00000010#32 = .ok .buildPing ∧ decode 0x00000011#32 = .ok .buildMcu ∧
  decode 0x00000012#32 = .ok .buildRaw ∧ decode 0x00000013#32 = .ok .buildData ∧
  decode 0x00000020#32 = .ok .compress ∧ decode 0x00000021#32 = .ok .pack ∧
  decode 0x00000030#32 = .ok .tx ∧ decode 0x00000031#32 = .ok .queue ∧
  decode 0x00000003#32 = .error .reservedOpcode ∧ decode 0x00000014#32 = .error .reservedOpcode ∧
  decode 0x0000001F#32 = .error .reservedOpcode ∧ decode 0x00000022#32 = .error .reservedOpcode ∧
  decode 0x00000032#32 = .error .reservedOpcode ∧ decode 0x000000FF#32 = .error .reservedOpcode ∧
  decode 0x00000110#32 = .error .reservedBits ∧ decode 0x80000000#32 = .error .reservedBits

/-- 30_encoding.md R70, R72, R73: each command has exactly one word, and the decoder reads that word as that command and no
other word as any command. -/
def Obligations.DecodeIsExactlyTheEncodedWord : Prop :=
  ∀ (w : Word) (i : Instr), decode w = .ok i ↔ w = encode i

/-- 30_encoding.md R73: a nonzero RSVD field or an unlisted OPCODE is rejected with ERRCODE = 1 and has no other effect;
every other word is dispatched to a command, the one whose OPCODE it carries. -/
def Obligations.ReservedCommandWordsAreRejected : Prop :=
  ∀ (w : Word) (s : State),
    ((w.extractLsb' 8 24 ≠ 0#24 ∨ w.extractLsb' 0 8 ∉ listedOpcodes) →
      cmdIssue w s = .next { s with errcode := 1#4 }) ∧
    ((w.extractLsb' 8 24 = 0#24 ∧ w.extractLsb' 0 8 ∈ listedOpcodes) →
      ∃ i, opcode i = w.extractLsb' 0 8 ∧ cmdIssue w s = exec i s)

/-! ## Steps -/

/-- 44_ir_engine.md R189, 40_command_common.md R90: an edge with `rst` low whose host slot is a CMD write of a word that
decodes to `i` is exec of `i` after that edge's Tick, with the edge's inputs consumed and the response OK. -/
def Obligations.StepRunsThePresentedCommand : Prop :=
  ∀ (s : State) (w : Word) (i : Instr) (h : List HostSlot),
    s.rstIn.head? ≠ some true → s.host = .write 0x08#17 .word w :: h → decode w = .ok i →
    step s = exec i { tick { s with rstIn := s.rstIn.tail } with host := h, resp := some .writeOk }

/-- 44_ir_engine.md R189, 30_encoding.md R73: the same edge with a word that does not decode rejects it: after the Tick only
ERRCODE changes, to 1. -/
def Obligations.StepRejectsAnIllegalCommandWord : Prop :=
  ∀ (s : State) (w : Word) (h : List HostSlot),
    s.rstIn.head? ≠ some true → s.host = .write 0x08#17 .word w :: h → commandWordOk w = false →
    step s = .next { tick { s with rstIn := s.rstIn.tail } with host := h, resp := some .writeOk, errcode := 1#4 }

/-- 70_reset_and_hazards.md R250, R252, 10_state.md R43: at an edge with `rst` high every piece of state takes its reset
value, RAM is unchanged, the output is 0, no Tick runs (FRAMES_SENT is 0), and no transaction completes: what the host
presents still waits. -/
def Obligations.ResetEdgeRestoresResetValues : Prop :=
  ∀ (s : State) (r : List Bool), s.rstIn = true :: r →
    ∃ t, step s = .next t ∧
      t.src = 0#32 ∧ t.len = 0#32 ∧ t.dst = 0#32 ∧ t.plid = 0#32 ∧ t.frm = 0#17 ∧ t.repeatCount = 0#16 ∧
      t.index = 0#16 ∧ t.res0 = 0#32 ∧ t.res1 = 0#32 ∧ t.res2 = 0#32 ∧ t.framesSent = 0#32 ∧ t.errcode = 0#4 ∧
      t.matchBit = false ∧ t.eng = .idle ∧ t.queue = [] ∧ irOut t = false ∧ t.ram = s.ram ∧ t.params = s.params ∧
      t.host = s.host ∧ t.resp = none ∧ t.rstIn = r ∧
      (0 < t.params.qDepth → memRead t 0x04#17 .word = .ok 0#32) ∧ memRead t 0x00#17 .word = .ok 0x45534C07#32

/-- 40_command_common.md R99, 70_reset_and_hazards.md R250: no edge with `rst` low stops a transmission before its last
clock, whatever the host does at that edge. -/
def Obligations.OnlyResetStopsATransmission : Prop :=
  ∀ (s t : State) (o : Origin) (f : List Byte) (r : Half) (k : Nat),
    step s = .next t → s.rstIn.head? ≠ some true → s.eng = .active o f r k → k + 1 < duration s.params f r →
    t.eng = .active o f r (k + 1)

/-- 60_exceptions.md R220, R221, R224: a step may fault (a bus error, an unwritten byte), but no step is refused: every
command has its meaning. -/
def Obligations.StepsAreNeverRefused : Prop :=
  ∀ (s : State) (r : Refusal), step s ≠ .refused r

/-- 00_scope.md R6, 10_state.md R20: the parameters are configuration and no step changes them. -/
def Obligations.StepsKeepTheParameters : Prop :=
  ∀ s t : State, step s = .next t → t.params = s.params

/-! ## Command results -/

/-- 40_command_common.md R97. -/
def Obligations.NopClearsOnlyErrcode : Prop :=
  encode .nop = 0x00000000#32 ∧ ∀ s : State, exec .nop s = .next { s with errcode := 0#4 }

/-- 41_checksum.md R102: rejection with RANGE; on acceptance RES0 is the CRC of the region, RES1 = RES2 = 0, ERRCODE = 0,
nothing else changes; LEN = 0 gives 0x8408 (CRC_XOROUT = 0). The last two clauses are R100, spelled out: the empty list
gives the seed, and one more byte enters the low end of the register and takes eight steps with the polynomial 0x8408. -/
def Obligations.CrcReportsTheRegionChecksum : Prop :=
  encode .crc = 0x00000001#32 ∧
  (∀ s : State,
    (s.params.memSize < s.src.toNat + s.len.toNat → exec .crc s = .next { s with errcode := 3#4 }) ∧
    (∀ l, s.src.toNat + s.len.toNat ≤ s.params.memSize → s.ram.readBytes s.src.toNat s.len.toNat = .ok l →
      exec .crc s = .next { s with
        res0 := (crc16 s.params l).setWidth 32, res1 := 0#32, res2 := 0#32, errcode := 0#4 }) ∧
    (s.len = 0#32 → s.src.toNat ≤ s.params.memSize → s.params.crcXorOut = 0#16 →
      exec .crc s = .next { s with res0 := 0x00008408#32, res1 := 0#32, res2 := 0#32, errcode := 0#4 })) ∧
  (∀ p : Params, crc16 p [] = 0x8408#16 ^^^ p.crcXorOut) ∧
  (∀ (p : Params) (l : List Byte) (b : Byte),
    let bitStep (r : Half) : Half := if r.getLsbD 0 then (r >>> 1) ^^^ 0x8408#16 else r >>> 1
    crc16 p (l ++ [b]) = bitStep^[8] ((crc16 p l ^^^ p.crcXorOut) ^^^ b.setWidth 16) ^^^ p.crcXorOut)

/-- 41_checksum.md R103: LENGTH before RANGE; on acceptance the frame is split into header, body and little-endian trailer,
RES0 is the body's CRC, RES1 the trailer, RES2 whether the header is right, and MATCH whether both agree. -/
def Obligations.CrcCheckComparesHeaderAndTrailer : Prop :=
  encode .crcCheck = 0x00000002#32 ∧
  ∀ s : State,
    let h := if s.frm.getLsbD 16 then 4 else 0
    (s.len.toNat < h + 2 → exec .crcCheck s = .next { s with errcode := 2#4 }) ∧
    (h + 2 ≤ s.len.toNat → s.params.memSize < s.src.toNat + s.len.toNat →
      exec .crcCheck s = .next { s with errcode := 3#4 }) ∧
    (∀ (hdr body : List Byte) (lo hi : Byte),
      s.src.toNat + s.len.toNat ≤ s.params.memSize → hdr.length = h →
      s.ram.readBytes s.src.toNat s.len.toNat = .ok (hdr ++ body ++ [lo, hi]) →
      exec .crcCheck s = .next { s with
        matchBit := decide ((h = 0 ∨ hdr = [0x00#8, 0x00#8, 0x00#8, 0x40#8]) ∧ crc16 s.params body = hi ++ lo),
        res0 := (crc16 s.params body).setWidth 32, res1 := (hi ++ lo).setWidth 32,
        res2 := if h = 0 ∨ hdr = [0x00#8, 0x00#8, 0x00#8, 0x40#8] then 1#32 else 0#32, errcode := 0#4 })

/-- 43_frame_builder.md R122, with R120 and R121. -/
def Obligations.BuildPingStoresThePingFrame : Prop :=
  encode .buildPing = 0x00000010#32 ∧
  ∀ s : State,
    let body : List Byte :=
      [0x85#8, wordByte s.plid 3, wordByte s.plid 2, wordByte s.plid 1, wordByte s.plid 0,
        0x17#8, 0x01#8, 0x00#8, 0x00#8, 0x00#8] ++ List.replicate 22 0x01#8
    let c := crc16 s.params body
    let f := (if s.frm.getLsbD 16 then [0x00#8, 0x00#8, 0x00#8, 0x40#8] else []) ++ body ++
      [c.extractLsb' 0 8, c.extractLsb' 8 8]
    f.length = (if s.frm.getLsbD 16 then 38 else 34) ∧
    (s.params.memSize < s.dst.toNat + f.length → exec .buildPing s = .next { s with errcode := 3#4 }) ∧
    (s.dst.toNat + f.length ≤ s.params.memSize →
      exec .buildPing s = .next { s with
        ram := s.ram.writeBytes s.dst.toNat f, res0 := BitVec.ofNat 32 f.length, res1 := 0#32, res2 := 0#32,
        errcode := 0#4 })

/-- 43_frame_builder.md R123, with R120 and R121. -/
def Obligations.BuildMcuStoresTheMcuFrame : Prop :=
  encode .buildMcu = 0x00000011#32 ∧
  ∀ s : State,
    let lout := 10 + s.len.toNat + 2 + (if s.frm.getLsbD 16 then 4 else 0)
    let fits := s.src.toNat + s.len.toNat ≤ s.params.memSize ∧ s.dst.toNat + lout ≤ s.params.memSize
    let shared := overlap s.src.toNat s.len.toNat s.dst.toNat lout
    (¬ fits → exec .buildMcu s = .next { s with errcode := 3#4 }) ∧
    (fits → shared → exec .buildMcu s = .next { s with errcode := 4#4 }) ∧
    (∀ payload, fits → ¬ shared → s.ram.readBytes s.src.toNat s.len.toNat = .ok payload →
      let body : List Byte :=
        [0x85#8, wordByte s.plid 3, wordByte s.plid 2, wordByte s.plid 1, wordByte s.plid 0,
          0x34#8, 0x00#8, 0x00#8, 0x00#8, s.frm.extractLsb' 8 8] ++ payload
      let c := crc16 s.params body
      let f := (if s.frm.getLsbD 16 then [0x00#8, 0x00#8, 0x00#8, 0x40#8] else []) ++ body ++
        [c.extractLsb' 0 8, c.extractLsb' 8 8]
      f.length = lout ∧
      exec .buildMcu s = .next { s with
        ram := s.ram.writeBytes s.dst.toNat f, res0 := BitVec.ofNat 32 f.length, res1 := 0#32, res2 := 0#32,
        errcode := 0#4 })

/-- 43_frame_builder.md R124, with R120 and R121. -/
def Obligations.BuildRawStoresTheRawFrame : Prop :=
  encode .buildRaw = 0x00000012#32 ∧
  ∀ s : State,
    let lout := 6 + s.len.toNat + 2 + (if s.frm.getLsbD 16 then 4 else 0)
    let fits := s.src.toNat + s.len.toNat ≤ s.params.memSize ∧ s.dst.toNat + lout ≤ s.params.memSize
    let shared := overlap s.src.toNat s.len.toNat s.dst.toNat lout
    (¬ fits → exec .buildRaw s = .next { s with errcode := 3#4 }) ∧
    (fits → shared → exec .buildRaw s = .next { s with errcode := 4#4 }) ∧
    (∀ payload, fits → ¬ shared → s.ram.readBytes s.src.toNat s.len.toNat = .ok payload →
      let body : List Byte :=
        [s.frm.extractLsb' 0 8, wordByte s.plid 3, wordByte s.plid 2, wordByte s.plid 1, wordByte s.plid 0,
          s.frm.extractLsb' 8 8] ++ payload
      let c := crc16 s.params body
      let f := (if s.frm.getLsbD 16 then [0x00#8, 0x00#8, 0x00#8, 0x40#8] else []) ++ body ++
        [c.extractLsb' 0 8, c.extractLsb' 8 8]
      f.length = lout ∧
      exec .buildRaw s = .next { s with
        ram := s.ram.writeBytes s.dst.toNat f, res0 := BitVec.ofNat 32 f.length, res1 := 0#32, res2 := 0#32,
        errcode := 0#4 })

/-- 43_frame_builder.md R126, with R120, R121 and R125. -/
def Obligations.BuildDataStoresTheNumberedFrame : Prop :=
  encode .buildData = 0x00000013#32 ∧
  ∀ s : State,
    let b := s.len.toNat
    let i := s.index.toNat
    let c := min 20 (b - 20 * i)
    let lout := 10 + 2 + c + 2 + (if s.frm.getLsbD 16 then 4 else 0)
    let fits := s.src.toNat + b ≤ s.params.memSize ∧ s.dst.toNat + lout ≤ s.params.memSize
    let shared := overlap s.src.toNat b s.dst.toNat lout
    (b ≤ 20 * i → exec .buildData s = .next { s with errcode := 2#4 }) ∧
    (20 * i < b → ¬ fits → exec .buildData s = .next { s with errcode := 3#4 }) ∧
    (20 * i < b → fits → shared → exec .buildData s = .next { s with errcode := 4#4 }) ∧
    (∀ chunk, 20 * i < b → fits → ¬ shared → s.ram.readBytes (s.src.toNat + 20 * i) c = .ok chunk →
      let body : List Byte :=
        [0x85#8, wordByte s.plid 3, wordByte s.plid 2, wordByte s.plid 1, wordByte s.plid 0,
          0x34#8, 0x00#8, 0x00#8, 0x00#8, s.frm.extractLsb' 8 8,
          s.index.extractLsb' 0 8, s.index.extractLsb' 8 8] ++ chunk
      let k := crc16 s.params body
      let f := (if s.frm.getLsbD 16 then [0x00#8, 0x00#8, 0x00#8, 0x40#8] else []) ++ body ++
        [k.extractLsb' 0 8, k.extractLsb' 8 8]
      f.length = lout ∧
      exec .buildData s = .next { s with
        ram := s.ram.writeBytes s.dst.toNat f, res0 := BitVec.ofNat 32 f.length, res1 := BitVec.ofNat 32 c,
        res2 := BitVec.ofNat 32 ((b + 19) / 20), errcode := 0#4 })

/-- 42_compressor.md R114, with R113: the padded coded stream where it is shorter than the samples, the samples otherwise. The
last clause is the loop of R112: the code of a non-empty list is, run by run in order, the run's value where the rule emits a
literal and then the run's count code where the rule emits one. -/
def Obligations.CompressStoresTheShorterStream : Prop :=
  encode .compress = 0x00000020#32 ∧
  (∀ s : State,
    let n := s.len.toNat
    let legal := n ≠ 0 ∧ n % 8 = 0
    let fits := s.src.toNat + n ≤ s.params.memSize ∧ s.dst.toNat + n ≤ s.params.memSize
    let shared := overlap s.src.toNat n s.dst.toNat n
    (¬ legal → exec .compress s = .next { s with errcode := 2#4 }) ∧
    (legal → ¬ fits → exec .compress s = .next { s with errcode := 3#4 }) ∧
    (legal → fits → shared → exec .compress s = .next { s with errcode := 4#4 }) ∧
    (∀ l, legal → fits → ¬ shared → s.ram.readBytes s.src.toNat n = .ok l →
      let e := rle s.params l
      let rl := 8 * ((e.length + 7) / 8)
      (e.length < n →
        exec .compress s = .next { s with
          ram := s.ram.writeBytes s.dst.toNat (e ++ List.replicate (rl - e.length) 0x00#8),
          res0 := BitVec.ofNat 32 rl, res1 := BitVec.ofNat 32 e.length, res2 := 1#32, errcode := 0#4 }) ∧
      (n ≤ e.length →
        exec .compress s = .next { s with
          ram := s.ram.writeBytes s.dst.toNat l,
          res0 := BitVec.ofNat 32 n, res1 := BitVec.ofNat 32 e.length, res2 := 0#32, errcode := 0#4 }))) ∧
  (∀ (p : Params) (l : List Byte), l ≠ [] →
    rle p l = (runs l).zipIdx.flatMap fun ((v, n), m) =>
      (if p.rleLiteralEveryRun = true ∨ m = 0 then [v] else []) ++
        (if 1 < n ∨ p.rleCodeUnitRuns = true then gamma n else []))

/-- 42_compressor.md R116; `packSamples` is the function of R115, which `PackedBitsAreTheSamples` states. -/
def Obligations.PackStoresThePackedSamples : Prop :=
  encode .pack = 0x00000021#32 ∧
  ∀ s : State,
    let n := s.len.toNat
    let legal := n ≠ 0 ∧ n % 8 = 0
    let fits := s.src.toNat + n ≤ s.params.memSize ∧ s.dst.toNat + n / 8 ≤ s.params.memSize
    let shared := overlap s.src.toNat n s.dst.toNat (n / 8)
    (¬ legal → exec .pack s = .next { s with errcode := 2#4 }) ∧
    (legal → ¬ fits → exec .pack s = .next { s with errcode := 3#4 }) ∧
    (legal → fits → shared → exec .pack s = .next { s with errcode := 4#4 }) ∧
    (∀ l, legal → fits → ¬ shared → s.ram.readBytes s.src.toNat n = .ok l →
      exec .pack s = .next { s with
        ram := s.ram.writeBytes s.dst.toNat (packSamples l),
        res0 := BitVec.ofNat 32 (n / 8), res1 := 0#32, res2 := 0#32, errcode := 0#4 })

/-- 44_ir_engine.md R190: LENGTH, RANGE, BUSY in this order; on acceptance the result registers are 0 and the private copy is
launched; with an empty queue (10_state.md R41 item 1) it is active from clock 0, or, when D(F, REPEAT) = 0, complete at
once: FRAMES_SENT counts it and BUSY stays 0. -/
def Obligations.TxLaunchesAPrivateCopy : Prop :=
  encode .tx = 0x00000030#32 ∧
  ∀ s : State,
    let n := s.len.toNat
    let legal := n ≠ 0 ∧ n ≤ s.params.maxFrame
    let fits := s.src.toNat + n ≤ s.params.memSize
    (¬ legal → exec .tx s = .next { s with errcode := 2#4 }) ∧
    (legal → ¬ fits → exec .tx s = .next { s with errcode := 3#4 }) ∧
    (legal → fits → s.eng ≠ .idle → exec .tx s = .next { s with errcode := 5#4 }) ∧
    (∀ f, legal → fits → s.eng = .idle → s.ram.readBytes s.src.toNat n = .ok f →
      exec .tx s = .next
        (launch .direct f s.repeatCount { s with res0 := 0#32, res1 := 0#32, res2 := 0#32, errcode := 0#4 }) ∧
      (0 < duration s.params f s.repeatCount →
        exec .tx s = .next { s with
          res0 := 0#32, res1 := 0#32, res2 := 0#32, errcode := 0#4, eng := .active .direct f s.repeatCount 0 }) ∧
      (s.queue = [] → duration s.params f s.repeatCount = 0 →
        exec .tx s = .next { s with
          res0 := 0#32, res1 := 0#32, res2 := 0#32, errcode := 0#4, framesSent := s.framesSent + 1#32 }))

/-- 44_ir_engine.md R191: LENGTH, RANGE, QFULL in this order; on acceptance the private copy waits behind an active engine,
and with an idle one (whose queue is empty, 10_state.md R41 item 1) it is active from clock 0, or, when D(F, REPEAT) = 0,
complete at once. The last clause says the rule's `Launch(Queued, head(Q))` for any queue of an idle engine. RES0 is the
occupancy after the command. -/
def Obligations.QueueAppendsAndStartsAnIdleEngine : Prop :=
  encode .queue = 0x00000031#32 ∧
  ∀ s : State,
    let n := s.len.toNat
    let legal := n ≠ 0 ∧ n ≤ s.params.maxFrame
    let fits := s.src.toNat + n ≤ s.params.memSize
    (¬ legal → exec .queue s = .next { s with errcode := 2#4 }) ∧
    (legal → ¬ fits → exec .queue s = .next { s with errcode := 3#4 }) ∧
    (legal → fits → s.queue.length = s.params.qDepth → exec .queue s = .next { s with errcode := 6#4 }) ∧
    (∀ f, legal → fits → s.queue.length ≠ s.params.qDepth → s.ram.readBytes s.src.toNat n = .ok f →
      (s.eng ≠ .idle →
        exec .queue s = .next { s with
          queue := s.queue ++ [⟨f, s.repeatCount⟩], res0 := BitVec.ofNat 32 (s.queue.length + 1), res1 := 0#32,
          res2 := 0#32, errcode := 0#4 }) ∧
      (s.eng = .idle → s.queue = [] → 0 < duration s.params f s.repeatCount →
        exec .queue s = .next { s with
          queue := [⟨f, s.repeatCount⟩], eng := .active .queued f s.repeatCount 0, res0 := 1#32, res1 := 0#32,
          res2 := 0#32, errcode := 0#4 }) ∧
      (s.eng = .idle → s.queue = [] → duration s.params f s.repeatCount = 0 →
        exec .queue s = .next { s with
          framesSent := s.framesSent + 1#32, res0 := 0#32, res1 := 0#32, res2 := 0#32, errcode := 0#4 }) ∧
      (∀ e q, s.eng = .idle → s.queue ++ [⟨f, s.repeatCount⟩] = e :: q →
        let u := launch .queued e.frame e.repeats { s with queue := e :: q }
        exec .queue s = .next { u with
          res0 := BitVec.ofNat 32 u.queue.length, res1 := 0#32, res2 := 0#32, errcode := 0#4 }))

/-! ## Rules about every command -/

/-- 60_exceptions.md R224: a command word that ends in an error code changes ERRCODE and nothing else. -/
def Obligations.RejectionChangesOnlyErrcode : Prop :=
  ∀ (w : Word) (s t : State), cmdIssue w s = .next t → t.errcode ≠ 0#4 → t = { s with errcode := t.errcode }

/-- 60_exceptions.md R220: which codes each command can leave in ERRCODE; an illegal word leaves OPCODE, and no command
leaves that. -/
def Obligations.EachCommandRaisesItsOwnCodes : Prop :=
  (∀ (i : Instr) (s t : State), exec i s = .next t →
    t.errcode ∈ (match i with
      | .nop => [0#4]
      | .crc => [0#4, 3#4]
      | .crcCheck => [0#4, 2#4, 3#4]
      | .buildPing => [0#4, 3#4]
      | .buildMcu => [0#4, 3#4, 4#4]
      | .buildRaw => [0#4, 3#4, 4#4]
      | .buildData => [0#4, 2#4, 3#4, 4#4]
      | .compress => [0#4, 2#4, 3#4, 4#4]
      | .pack => [0#4, 2#4, 3#4, 4#4]
      | .tx => [0#4, 2#4, 3#4, 5#4]
      | .queue => [0#4, 2#4, 3#4, 6#4])) ∧
  (∀ (w : Word) (s t : State), cmdIssue w s = .next t → (t.errcode = 1#4 ↔ commandWordOk w = false))

/-- 10_state.md R36, 40_command_common.md R91: no command changes an operand register; nor does one change the parameters or
the inputs and the response of the edge. -/
def Obligations.CommandsKeepTheOperandRegisters : Prop :=
  ∀ (w : Word) (s t : State), cmdIssue w s = .next t →
    t.src = s.src ∧ t.len = s.len ∧ t.dst = s.dst ∧ t.plid = s.plid ∧ t.frm = s.frm ∧
    t.repeatCount = s.repeatCount ∧ t.index = s.index ∧
    t.params = s.params ∧ t.rstIn = s.rstIn ∧ t.host = s.host ∧ t.resp = s.resp

/-- 10_state.md R25: only an accepted CRC_CHECK writes MATCH. -/
def Obligations.OnlyAcceptedCrcCheckWritesMatch : Prop :=
  ∀ (w : Word) (s t : State), cmdIssue w s = .next t → (w ≠ encode .crcCheck ∨ t.errcode ≠ 0#4) →
    t.matchBit = s.matchBit

/-- 40_command_common.md R95: NOP and every rejected command leave RES0 to RES2 unchanged, and an accepted command writes 0
to each result register its rule does not name. -/
def Obligations.ResultRegistersConvention : Prop :=
  ∀ (w : Word) (s t : State), cmdIssue w s = .next t →
    ((w = encode .nop ∨ t.errcode ≠ 0#4) → t.res0 = s.res0 ∧ t.res1 = s.res1 ∧ t.res2 = s.res2) ∧
    (t.errcode = 0#4 →
      (∃ i ∈ [Instr.crc, .buildPing, .buildMcu, .buildRaw, .pack, .tx, .queue], w = encode i) →
      t.res1 = 0#32 ∧ t.res2 = 0#32) ∧
    (t.errcode = 0#4 → w = encode .tx → t.res0 = 0#32)

/-- 10_state.md R24, R25, R37, 40_command_common.md R98: an edge with `rst` low at which no CMD write completes leaves
ERRCODE, MATCH and the result registers alone, so no tick changes them. -/
def Obligations.OnlyCommandsWriteStatusAndResults : Prop :=
  ∀ s t : State, step s = .next t → s.rstIn.head? ≠ some true →
    (∀ size v, s.host.head? ≠ some (.write 0x08#17 size v)) →
    t.errcode = s.errcode ∧ t.matchBit = s.matchBit ∧ t.res0 = s.res0 ∧ t.res1 = s.res1 ∧ t.res2 = s.res2

/-! ## Frames -/

/-- Frame of NOP, CRC and CRC_CHECK (40_command_common.md R97, 41_checksum.md R102, R103): they may change ERRCODE, RES0 to
RES2 (not NOP) and MATCH (CRC_CHECK only); every byte of RAM and everything else is unchanged. -/
def Obligations.CheckingCommandsFrame : Prop :=
  ∀ (i : Instr) (s t : State), (i = .nop ∨ i = .crc ∨ i = .crcCheck) → exec i s = .next t →
    (∀ x, t.ram.read x = s.ram.read x) ∧ t.ram = s.ram ∧
    t.src = s.src ∧ t.len = s.len ∧ t.dst = s.dst ∧ t.plid = s.plid ∧ t.frm = s.frm ∧
    t.repeatCount = s.repeatCount ∧ t.index = s.index ∧ t.framesSent = s.framesSent ∧ t.eng = s.eng ∧
    t.queue = s.queue ∧ t.params = s.params ∧ t.rstIn = s.rstIn ∧ t.host = s.host ∧ t.resp = s.resp ∧
    (i ≠ .crcCheck → t.matchBit = s.matchBit) ∧
    (i = .nop → t.res0 = s.res0 ∧ t.res1 = s.res1 ∧ t.res2 = s.res2)

/-- Frame of the BUILD commands, COMPRESS and PACK (43_frame_builder.md R122 to R126, 42_compressor.md R114, R116): they may
change ERRCODE, RES0 to RES2, and the bytes stored from DST on: the frame's length of them for a BUILD command, the used
size for COMPRESS, LEN / 8 for PACK. Every other byte of RAM is unchanged (all of them on a rejection), and so is everything
else. -/
def Obligations.StoringCommandsFrame : Prop :=
  ∀ (i : Instr) (s t : State) (n : Nat), exec i s = .next t →
    (match i with
      | .buildPing => n = frameLen 32 (frmPp16 s)
      | .buildMcu => n = frameLen (10 + opLen s) (frmPp16 s)
      | .buildRaw => n = frameLen (6 + opLen s) (frmPp16 s)
      | .buildData => n = frameLen (12 + chunkCount (opLen s) (opIndex s)) (frmPp16 s)
      | .compress => ∀ l, s.ram.readBytes (opSrc s) (opLen s) = .ok l →
          n = (if (rle s.params l).length < opLen s then roundUp8 (rle s.params l).length else opLen s)
      | .pack => n = opLen s / 8
      | _ => False) →
    (∀ x, (x < opDst s ∨ opDst s + n ≤ x) → t.ram.read x = s.ram.read x) ∧
    (t.errcode ≠ 0#4 → ∀ x, t.ram.read x = s.ram.read x) ∧
    t.src = s.src ∧ t.len = s.len ∧ t.dst = s.dst ∧ t.plid = s.plid ∧ t.frm = s.frm ∧
    t.repeatCount = s.repeatCount ∧ t.index = s.index ∧ t.framesSent = s.framesSent ∧ t.matchBit = s.matchBit ∧
    t.eng = s.eng ∧ t.queue = s.queue ∧ t.params = s.params ∧ t.rstIn = s.rstIn ∧ t.host = s.host ∧ t.resp = s.resp

/-- Frame of TX and QUEUE (44_ir_engine.md R190, R191): they may change ERRCODE, RES0 to RES2, the engine, the queue and
FRAMES_SENT; every byte of RAM and everything else is unchanged. -/
def Obligations.TransmitCommandsFrame : Prop :=
  ∀ (i : Instr) (s t : State), (i = .tx ∨ i = .queue) → exec i s = .next t →
    (∀ x, t.ram.read x = s.ram.read x) ∧ t.ram = s.ram ∧
    t.src = s.src ∧ t.len = s.len ∧ t.dst = s.dst ∧ t.plid = s.plid ∧ t.frm = s.frm ∧
    t.repeatCount = s.repeatCount ∧ t.index = s.index ∧ t.matchBit = s.matchBit ∧
    t.params = s.params ∧ t.rstIn = s.rstIn ∧ t.host = s.host ∧ t.resp = s.resp

/-! ## Checksum, frames, compressor -/

/-- 41_checksum.md R101 items 4 and 5, with no final XOR: a list followed by its own CRC, low byte first, has CRC 0; and the
examples, the last of which is the ASCII digits 1 to 9. -/
def Obligations.ChecksumOfTerminatedListIsZero : Prop :=
  ∀ p : Params, p.crcXorOut = 0#16 →
    (∀ l : List Byte, crc16 p (l ++ [(crc16 p l).extractLsb' 0 8, (crc16 p l).extractLsb' 8 8]) = 0#16) ∧
    crc16 p [0x00#8] = 0x8CCC#16 ∧ crc16 p [0x01#8] = 0x9D45#16 ∧ crc16 p [0xFF#8] = 0x83B4#16 ∧
    crc16 p [0x31#8, 0x32#8, 0x33#8, 0x34#8, 0x35#8, 0x36#8, 0x37#8, 0x38#8, 0x39#8] = 0x837F#16

/-- 43_frame_builder.md R127 and 41_checksum.md R103: a frame that a BUILD command has just built, checked where it was built
with LEN = RES0 and the same FRM, passes CRC_CHECK: MATCH = 1, RES2 = 1, RES0 = RES1. For every value of CRC_XOROUT. -/
def Obligations.BuiltFramesPassTheCheck : Prop :=
  ∀ (i : Instr) (s t : State), s.params.wf = true →
    (i = .buildPing ∨ i = .buildMcu ∨ i = .buildRaw ∨ i = .buildData) →
    exec i s = .next t → t.errcode = 0#4 →
    ∃ u, exec .crcCheck { t with src := t.dst, len := t.res0 } = .next u ∧
      u.matchBit = true ∧ u.res2 = 1#32 ∧ u.res0 = u.res1 ∧ u.errcode = 0#4

/-- 43_frame_builder.md R125: the chunks of indices 0 to ceil(B / 20) − 1, in index order, give the buffer back, and each
holds 1 to 20 bytes. -/
def Obligations.ChunksInIndexOrderRebuildTheBuffer : Prop :=
  ∀ l : List Byte,
    (List.range (chunkFrames l.length)).flatMap (fun i => (l.drop (20 * i)).take (chunkCount l.length i)) = l ∧
    ∀ i, i < chunkFrames l.length ↔ (1 ≤ chunkCount l.length i ∧ chunkCount l.length i ≤ 20)

/-- 42_compressor.md R111: for 1 ≤ n ≤ 16383, Gamma(n) is k−1 zero samples and then the k binary digits of n as samples 0 or 1,
most significant first, where k is the number of binary digits of n (`Nat.size`); the first digit is 1. -/
def Obligations.GammaIsZerosThenTheBinaryDigits : Prop :=
  ∀ n : Nat, 1 ≤ n → n ≤ 16383 →
    ∃ digits : List Byte, gamma n = List.replicate (Nat.size n - 1) 0x00#8 ++ digits ∧ digits.length = Nat.size n ∧
      (gamma n).length = 2 * Nat.size n - 1 ∧ digits.head? = some 0x01#8 ∧
      (∀ d ∈ digits, d = 0x00#8 ∨ d = 0x01#8) ∧ digits.foldl (fun acc d => 2 * acc + d.toNat) 0 = n

/-- 42_compressor.md R110: the runs rebuild the samples, each has a length from 1 to 16383, and two consecutive runs of the
same value are pieces of one split run, so the first of them is of full length. -/
def Obligations.RunsSplitTheSamplesMaximally : Prop :=
  ∀ l : List Byte,
    (runs l).flatMap (fun r => List.replicate r.2 r.1) = l ∧
    (∀ r ∈ runs l, 1 ≤ r.2 ∧ r.2 ≤ 16383) ∧
    (runs l).IsChain (fun a b => a.1 = b.1 → a.2 = 16383)

/-- 42_compressor.md R117 item 3, R112: with a literal and a count code for every run, no two sample lists have the same
code. -/
def Obligations.FullyCodedRunsAreDecodable : Prop :=
  ∀ (p : Params) (l l' : List Byte), p.rleLiteralEveryRun = true → p.rleCodeUnitRuns = true →
    rle p l = rle p l' → l = l'

/-- 42_compressor.md R112, 90_conflicts.md C2: under the defaults two sample lists share one code. -/
def Obligations.DefaultCodeIsAmbiguous : Prop :=
  rle Params.specDefault [0x01#8, 0x00#8, 0x01#8, 0x00#8] = [0x01#8, 0x00#8, 0x01#8, 0x00#8] ∧
  rle Params.specDefault [0x01#8, 0x01#8] = [0x01#8, 0x00#8, 0x01#8, 0x00#8]

/-- 42_compressor.md R117 item 1, R112: for a non-empty buffer with no two adjacent equal samples, the code has N samples
under the defaults, 2N with a literal and a count code for every run, and N + 1 with the first literal only and a count code
for every run, so raw is selected under these three settings. With neither flag, R112 codes such a list in its first sample
alone. -/
def Obligations.NoRepeatsCodeLengthBySetting : Prop :=
  ∀ (p : Params) (l : List Byte), l ≠ [] → l.IsChain (· ≠ ·) →
    (p.rleLiteralEveryRun = true → p.rleCodeUnitRuns = false → (rle p l).length = l.length) ∧
    (p.rleLiteralEveryRun = true → p.rleCodeUnitRuns = true → (rle p l).length = 2 * l.length) ∧
    (p.rleLiteralEveryRun = false → p.rleCodeUnitRuns = true → (rle p l).length = l.length + 1) ∧
    (p.rleLiteralEveryRun = false → p.rleCodeUnitRuns = false → (rle p l).length = 1)

/-- 42_compressor.md R117 item 2: an all-equal buffer of 2 ≤ L ≤ 16383 samples is coded in 2 · bitlength(L) samples, under
every setting of the two flags. (R117 says L ≤ 16383; for L = 1 the defaults emit no count code, and COMPRESS takes only
multiples of 8.) -/
def Obligations.AllEqualSamplesCodeInTwiceTheBitLength : Prop :=
  ∀ (p : Params) (v : Byte) (n : Nat), 2 ≤ n → n ≤ 16383 →
    (rle p (List.replicate n v)).length = 2 * Nat.size n

/-- 42_compressor.md R117 item 4 and R114: an accepted COMPRESS reports a used size that is a multiple of 8 and at most N, and
leaves the bytes of [DST + RES0, DST + N) unchanged. -/
def Obligations.CompressUsesAtMostTheRawSize : Prop :=
  ∀ s t : State, s.params.wf = true → exec .compress s = .next t → t.errcode = 0#4 →
    t.res0.toNat % 8 = 0 ∧ t.res0.toNat ≤ opLen s ∧
    ∀ x, opDst s + t.res0.toNat ≤ x → x < opDst s + opLen s → t.ram.read x = s.ram.read x

/-- 42_compressor.md R115: |S| / 8 bytes; sample 8k + j decides bit 7 − j of byte k, and any nonzero sample counts as 1. -/
def Obligations.PackedBitsAreTheSamples : Prop :=
  ∀ l : List Byte, l.length % 8 = 0 →
    (packSamples l).length = l.length / 8 ∧
    ∀ k j, k < l.length / 8 → j < 8 →
      ((packSamples l).getD k 0#8).getLsbD (7 - j) = decide (l.getD (8 * k + j) 0#8 ≠ 0#8)

/-! ## The engine -/

/-- 44_ir_engine.md R181. -/
def Obligations.SymbolsAreCutMostSignificantFirst : Prop :=
  ∀ f : List Byte, (symbols f).length = 4 * f.length ∧
    ∀ (i j : Nat) (b : Byte), f[i]? = some b → j < 4 → (symbols f)[4 * i + j]? = some (b.extractLsb' (6 - 2 * j) 2)

/-- 44_ir_engine.md R182 to R184, in the parameters: a pass is, for each symbol in order, BURST_N carrier periods (high for
CAR_HI clocks, then low for CAR_LO) and the pause of its value, then TERM_N carrier periods and IFD clocks low; Wave(F, R) is
R passes; D(F, R) is the rule's formula, and the clocks of Wave(F, R) add up to it; D(F, 0) = 0; for a legal configuration,
R ≥ 1 and |F| ≥ 1, D is at least 4 × BURST_N × 2 and so not 0; Level is the level of the segment that covers the clock. -/
def Obligations.WaveLastsExactlyItsDuration : Prop :=
  ∀ (p : Params) (f : List Byte) (r : Half),
    let carrier (n : Nat) : Waveform := (List.replicate n [(true, p.carHi), (false, p.carLo)]).flatten
    let pause (s : Symbol) : Nat := [p.pause0, p.pause1, p.pause2, p.pause3].getD s.toNat 0
    passWave p f =
      (symbols f).flatMap (fun s => carrier p.burstN ++ [(false, pause s)]) ++ carrier p.termN ++ [(false, p.ifd)] ∧
    wave p f r = (List.replicate r.toNat (passWave p f)).flatten ∧
    duration p f r =
      r.toNat * (4 * f.length * p.burstN * (p.carHi + p.carLo) + ((symbols f).map pause).sum +
        p.termN * (p.carHi + p.carLo) + p.ifd) ∧
    ((wave p f r).map Prod.snd).sum = duration p f r ∧ duration p f 0#16 = 0 ∧
    (p.wf = true → r ≠ 0#16 → f ≠ [] → 4 * p.burstN * 2 ≤ duration p f r ∧ 0 < duration p f r) ∧
    (∀ (w1 w2 : Waveform) (v : Bool) (n k : Nat), k < n → level (w1 ++ (v, n) :: w2) ((w1.map Prod.snd).sum + k) = v)

/-- 44_ir_engine.md R185. -/
def Obligations.OutputFollowsTheWaveform : Prop :=
  ∀ s : State, (s.eng = .idle → irOut s = false) ∧
    ∀ (o : Origin) (f : List Byte) (r : Half) (t : Nat), s.eng = .active o f r t → irOut s = level (wave s.params f r) t

/-- 44_ir_engine.md R186. -/
def Obligations.LaunchActivatesOrCompletes : Prop :=
  ∀ (o : Origin) (f : List Byte) (r : Half) (s : State),
    launch o f r s = if duration s.params f r = 0 then complete o s else { s with eng := .active o f r 0 }

/-- 44_ir_engine.md R187: FRAMES_SENT + 1, the head released if the transmission was queued, the engine idle, and then, if
the queue is not empty, its head launched; the recursion of the spec holds as an equation. -/
def Obligations.CompleteCountsReleasesAndRelaunches : Prop :=
  ∀ (o : Origin) (s : State),
    let s1 : State := { s with
      framesSent := s.framesSent + 1#32, queue := (if o = .queued then s.queue.tail else s.queue), eng := .idle }
    (s1.queue = [] → complete o s = s1) ∧
    (∀ e q, s1.queue = e :: q → complete o s = launch .queued e.frame e.repeats s1)

/-- 44_ir_engine.md R188. -/
def Obligations.TickAdvancesOrCompletes : Prop :=
  ∀ s : State, (s.eng = .idle → tick s = s) ∧
    ∀ (o : Origin) (f : List Byte) (r : Half) (t : Nat), s.eng = .active o f r t →
      tick s = if t + 1 < duration s.params f r then { s with eng := .active o f r (t + 1) } else complete o s

/-- 44_ir_engine.md R193: after an accepted TX with an empty queue and D > 0, the engine is at waveform clock k after k ticks
for k < D, with FRAMES_SENT as before, and after D ticks it is idle with FRAMES_SENT one more. -/
def Obligations.TransmissionIsBusyForItsDuration : Prop :=
  ∀ (s u : State) (f : List Byte), s.queue = [] → s.ram.readBytes (opSrc s) (opLen s) = .ok f →
    0 < duration s.params f s.repeatCount → exec .tx s = .next u → u.errcode = 0#4 →
    (∀ k, k < duration s.params f s.repeatCount →
      (tick^[k] u).eng = .active .direct f s.repeatCount k ∧ busy (tick^[k] u) = true ∧
        (tick^[k] u).framesSent = s.framesSent) ∧
    (tick^[duration s.params f s.repeatCount] u).eng = .idle ∧
    busy (tick^[duration s.params f s.repeatCount] u) = false ∧
    (tick^[duration s.params f s.repeatCount] u).framesSent = s.framesSent + 1#32

/-- 44_ir_engine.md R188, 70_reset_and_hazards.md R259: at the last clock of a transmission, the same tick that completes it
starts the next queued frame (of nonzero duration) at its clock 0: no idle clock between them. -/
def Obligations.QueuedFramesFollowWithoutAGap : Prop :=
  ∀ (s : State) (o : Origin) (f : List Byte) (r : Half) (t : Nat) (e : QEntry) (q : List QEntry),
    s.eng = .active o f r t → duration s.params f r ≤ t + 1 →
    s.queue = (if o = .queued then ⟨f, r⟩ :: e :: q else e :: q) → 0 < duration s.params e.frame e.repeats →
    tick s = { s with
      eng := .active .queued e.frame e.repeats 0, queue := e :: q, framesSent := s.framesSent + 1#32 }

/-- 44_ir_engine.md R187, R188, R192, 10_state.md R23: left to itself, an active engine sends its frame and then every queued
frame, staying busy without a gap, in exactly the clocks that remain; it ends idle over an empty queue, and FRAMES_SENT has
counted each of them once. -/
def Obligations.EngineDrainsTheQueueInExactTime : Prop :=
  ∀ (s : State) (o : Origin) (f : List Byte) (r : Half) (t : Nat),
    s.Inv → s.eng = .active o f r t →
    let waiting := if o = .queued then s.queue.tail else s.queue
    let n := (duration s.params f r - t) + (waiting.map fun e => duration s.params e.frame e.repeats).sum
    (∀ k, k < n → busy (tick^[k] s) = true) ∧
    (tick^[n] s).eng = .idle ∧ (tick^[n] s).queue = [] ∧
    (tick^[n] s).framesSent = s.framesSent + BitVec.ofNat 32 (waiting.length + 1)

/-- 44_ir_engine.md R188, R189, 70_reset_and_hazards.md R257, 20_memory.md R65: at an edge with `rst` low, the Tick changes
the engine, the queue and FRAMES_SENT alone (so RAM and every register stand); with no transaction presented the edge is that
ticked state, the slot consumed; with a write presented it is that write on the ticked state (`RegisterWrites`,
`RamAccessesAreLittleEndian` and `StepRunsThePresentedCommand` say what the write does; `ReadsHaveNoSideEffects` is the edge
of a read). Where no CMD write completes, the engine, the queue, FRAMES_SENT and the output are those after the Tick,
whatever the host writes to RAM or to the operand registers. -/
def Obligations.HostWritesNeverDisturbATransmission : Prop :=
  ∀ s : State, s.rstIn.head? ≠ some true →
    let u : State := tick { s with rstIn := s.rstIn.tail }
    u = { s with
      rstIn := s.rstIn.tail, eng := (tick s).eng, queue := (tick s).queue, framesSent := (tick s).framesSent } ∧
    (s.host = [] → step s = .next { u with resp := none }) ∧
    (∀ h, s.host = .idle :: h → step s = .next { u with host := h, resp := none }) ∧
    (∀ addr size v h, s.host = .write addr size v :: h →
      step s = memWrite addr size v { u with host := h, resp := some .writeOk }) ∧
    (∀ t, step s = .next t → (∀ size v, s.host.head? ≠ some (.write 0x08#17 size v)) →
      t.eng = (tick s).eng ∧ t.queue = (tick s).queue ∧ t.framesSent = (tick s).framesSent ∧ irOut t = irOut (tick s))

/-! ## The bus -/

/-- 20_memory.md R55, 10_state.md R21, R28, R38: what an aligned 32-bit read of each register offset answers. -/
def Obligations.RegisterReads : Prop :=
  ∀ s : State,
    memRead s 0x00#17 .word = .ok 0x45534C07#32 ∧ memRead s 0x08#17 .word = .ok 0#32 ∧
    memRead s 0x0C#17 .word = .ok s.framesSent ∧ memRead s 0x10#17 .word = .ok s.src ∧
    memRead s 0x14#17 .word = .ok s.len ∧ memRead s 0x18#17 .word = .ok s.dst ∧
    memRead s 0x1C#17 .word = .ok s.plid ∧ memRead s 0x20#17 .word = .ok (0#15 ++ s.frm) ∧
    memRead s 0x24#17 .word = .ok (0#16 ++ s.repeatCount) ∧ memRead s 0x28#17 .word = .ok (0#16 ++ s.index) ∧
    memRead s 0x30#17 .word = .ok s.res0 ∧ memRead s 0x34#17 .word = .ok s.res1 ∧
    memRead s 0x38#17 .word = .ok s.res2

/-- 20_memory.md R56, 10_state.md R21, R38: what an aligned 32-bit write to each register offset but CMD does: RW registers
take the value (reserved fields ignore it), RO registers ignore it. -/
def Obligations.RegisterWrites : Prop :=
  ∀ (s : State) (v : Word),
    (∀ a ∈ [0x00#17, 0x04#17, 0x0C#17, 0x30#17, 0x34#17, 0x38#17], memWrite a .word v s = .next s) ∧
    memWrite 0x10#17 .word v s = .next { s with src := v } ∧ memWrite 0x14#17 .word v s = .next { s with len := v } ∧
    memWrite 0x18#17 .word v s = .next { s with dst := v } ∧ memWrite 0x1C#17 .word v s = .next { s with plid := v } ∧
    memWrite 0x20#17 .word v s = .next { s with frm := v.extractLsb' 0 17 } ∧
    memWrite 0x24#17 .word v s = .next { s with repeatCount := v.extractLsb' 0 16 } ∧
    memWrite 0x28#17 .word v s = .next { s with index := v.extractLsb' 0 16 }

/-- 10_state.md R22: STATUS field by field, and a host write to it is ignored. -/
def Obligations.StatusReadsItsFields : Prop :=
  ∀ s : State, (∀ v, memWrite 0x04#17 .word v s = .next s) ∧
    ∃ w, memRead s 0x04#17 .word = .ok w ∧
      (w.getLsbD 0 = true ↔ ∃ o f r t, s.eng = .active o f r t) ∧
      (w.getLsbD 1 = true ↔ s.errcode ≠ 0#4) ∧
      w.getLsbD 2 = s.matchBit ∧ w.getLsbD 3 = false ∧ w.extractLsb' 4 4 = s.errcode ∧
      w.extractLsb' 8 8 = BitVec.ofNat 8 s.queue.length ∧
      (w.getLsbD 16 = true ↔ s.queue.length = s.params.qDepth) ∧ w.extractLsb' 17 15 = 0#15

/-- 20_memory.md R57, with R51, R58, R59: exactly which transactions are bus errors, for reads and for writes; one stops
the host's step with that fault (60_exceptions.md R221), so no state changes. -/
def Obligations.ForbiddenAccessesAreBusErrors : Prop :=
  ∀ (s : State) (addr : BusAddr) (size : AccessSize), s.params.wf = true →
    let a := addr.toNat
    let n := size.bytes
    let unmapped := (0x2C ≤ a ∧ a < 0x30) ∨ (0x3C ≤ a ∧ a < 0x10000) ∨ 0x10000 + s.params.memSize ≤ a
    let badRegister := a < 0x40 ∧ (n ≠ 4 ∨ a % 4 ≠ 0)
    let misaligned := 0x10000 ≤ a ∧ a % n ≠ 0
    ((unmapped ∨ badRegister ∨ misaligned) ↔ ∃ c, memRead s addr size = .error (.busError c addr)) ∧
    (∀ v, (unmapped ∨ badRegister ∨ misaligned) ↔ ∃ c, memWrite addr size v s = .fault (.busError c addr))

/-- 20_memory.md R53, R56, R62: a RAM write of 1, 2 or 4 bytes puts byte k of the value at address a + k, leaves every other
byte alone, and a read of the same size at the same address answers the value's low bytes. -/
def Obligations.RamAccessesAreLittleEndian : Prop :=
  ∀ (s : State) (addr : BusAddr) (size : AccessSize) (v : Word),
    0x10000 ≤ addr.toNat → addr.toNat % size.bytes = 0 → addr.toNat - 0x10000 + size.bytes ≤ s.params.memSize →
    ∃ t, memWrite addr size v s = .next t ∧
      (∀ k, k < size.bytes → t.ram.read (addr.toNat - 0x10000 + k) = some (v.extractLsb' (8 * k) 8)) ∧
      (∀ x, (x < addr.toNat - 0x10000 ∨ addr.toNat - 0x10000 + size.bytes ≤ x) → t.ram.read x = s.ram.read x) ∧
      memRead t addr size = .ok (BitVec.ofNat 32 (v.toNat % 2 ^ (8 * size.bytes))) ∧
      t = { s with ram := t.ram }

/-- 20_memory.md R55, R61, 44_ir_engine.md R189: an edge whose host slot is a read answers what MemRead answers on the ticked
state. With a value it changes nothing beyond the Tick but the host's own side: the slot is consumed and the response carries
the value. With a bus error or an unwritten byte it stops with that fault. -/
def Obligations.ReadsHaveNoSideEffects : Prop :=
  ∀ (s : State) (addr : BusAddr) (size : AccessSize) (h : List HostSlot),
    s.rstIn.head? ≠ some true → s.host = .read addr size :: h →
    (∀ t, step s = .next t →
      ∃ v, memRead (tick s) addr size = .ok v ∧
        t = { tick s with rstIn := s.rstIn.tail, host := h, resp := some (.readOk v) }) ∧
    (∀ v, memRead (tick s) addr size = .ok v →
      step s = .next { tick s with rstIn := s.rstIn.tail, host := h, resp := some (.readOk v) }) ∧
    (∀ e, memRead (tick s) addr size = .error e → step s = .fault e)

/-- 20_memory.md R67: where a byte that nothing has written stops a read. A host read of 1, 2 or 4 bytes that takes in such a
byte `x` stops with the fault, and so does every command that has passed its checks and reads `x`: CRC, CRC_CHECK, BUILD_MCU,
BUILD_RAW, COMPRESS, PACK, TX and QUEUE read [SRC, SRC+LEN), BUILD_DATA its chunk only. The fault names an unwritten byte of
the region, at or before `x`. Conversely, a command faults for nothing else: only for an unwritten byte of the region it
reads, so NOP and BUILD_PING never fault. -/
def Obligations.UnwrittenBytesFault : Prop :=
  ∀ s : State,
    let size := s.params.memSize
    let src := s.src.toNat
    let n := s.len.toNat
    let dst := s.dst.toNat
    let h := if s.frm.getLsbD 16 then 4 else 0
    let off := 20 * s.index.toNat
    let c := min 20 (n - off)
    (∀ x, s.ram.read x = none →
      let stops (i : Instr) (a len : Nat) : Prop :=
        a ≤ x → x < a + len → ∃ e, exec i s = .fault (.unwrittenRam e) ∧ a ≤ e ∧ e ≤ x ∧ s.ram.read e = none
      (∀ (addr : BusAddr) (w : AccessSize),
        let a := addr.toNat - 0x10000
        0x10000 ≤ addr.toNat → addr.toNat % w.bytes = 0 → a + w.bytes ≤ size → a ≤ x → x < a + w.bytes →
        ∃ e, memRead s addr w = .error (.unwrittenRam e) ∧ a ≤ e ∧ e ≤ x ∧ s.ram.read e = none) ∧
      (src + n ≤ size → stops .crc src n) ∧
      (h + 2 ≤ n → src + n ≤ size → stops .crcCheck src n) ∧
      (src + n ≤ size → dst + (10 + n + 2 + h) ≤ size → ¬ overlap src n dst (10 + n + 2 + h) →
        stops .buildMcu src n) ∧
      (src + n ≤ size → dst + (6 + n + 2 + h) ≤ size → ¬ overlap src n dst (6 + n + 2 + h) →
        stops .buildRaw src n) ∧
      (off < n → src + n ≤ size → dst + (12 + c + 2 + h) ≤ size → ¬ overlap src n dst (12 + c + 2 + h) →
        stops .buildData (src + off) c) ∧
      (n % 8 = 0 → src + n ≤ size → dst + n ≤ size → ¬ overlap src n dst n → stops .compress src n) ∧
      (n % 8 = 0 → src + n ≤ size → dst + n / 8 ≤ size → ¬ overlap src n dst (n / 8) → stops .pack src n) ∧
      (n ≤ s.params.maxFrame → src + n ≤ size → s.eng = .idle → stops .tx src n) ∧
      (n ≤ s.params.maxFrame → src + n ≤ size → s.queue.length ≠ s.params.qDepth → stops .queue src n)) ∧
    (∀ (i : Instr) (e : Fault), exec i s = .fault e →
      ∃ x, e = .unwrittenRam x ∧ s.ram.read x = none ∧
        (match i with
          | .nop => False
          | .buildPing => False
          | .buildData => src + off ≤ x ∧ x < src + off + c
          | _ => src ≤ x ∧ x < src + n))

/-! ## Host side -/

/-- 00_scope.md R8: a string whose length is not 17 has the zero identifier; the worked example. -/
def Obligations.IdentifierOfABarcode : Prop :=
  (∀ s : List Char, s.length ≠ 17 → deriveIdentifier s = [0x00#8, 0x00#8, 0x00#8, 0x00#8]) ∧
  deriveIdentifier
    ['A', 'A', '1', '2', '3', '4', '5', '6', '7', '8', '9', '0', '0', '0', '0', '0', 'X'] =
    [0x30#8, 0x39#8, 0x09#8, 0x32#8] ∧
  plidOfIdentifier [0x30#8, 0x39#8, 0x09#8, 0x32#8] = 0x32093930#32

/-! ## Invariants -/

/-- 10_state.md R39 to R41, R43: the invariants hold after reset. -/
def Obligations.ResetMeetsTheInvariants : Prop := State.reset.Inv

/-- 10_state.md R39 to R41, 60_exceptions.md R220, with the canonical form of RAM: from every state that meets the invariants,
every step that goes on leads to one that meets them. -/
def Obligations.StepKeepsTheInvariants : Prop :=
  ∀ s t : State, s.Inv → step s = .next t → t.Inv
end

