-- ==== Sys2Proof/Laws/State.lean ====
section
/-! SUPPORT. The small lemmas of the state's named updates: one per field and update, so that no proof unfolds a record
update. -/

namespace Sys2Proof.Machine

/-! ## setErr -/

@[simp] theorem setErr_src (v : BitVec 4) (s : State) : (setErr v s).src = s.src := rfl
@[simp] theorem setErr_len (v : BitVec 4) (s : State) : (setErr v s).len = s.len := rfl
@[simp] theorem setErr_dst (v : BitVec 4) (s : State) : (setErr v s).dst = s.dst := rfl
@[simp] theorem setErr_plid (v : BitVec 4) (s : State) : (setErr v s).plid = s.plid := rfl
@[simp] theorem setErr_frm (v : BitVec 4) (s : State) : (setErr v s).frm = s.frm := rfl
@[simp] theorem setErr_repeatCount (v : BitVec 4) (s : State) : (setErr v s).repeatCount = s.repeatCount := rfl
@[simp] theorem setErr_index (v : BitVec 4) (s : State) : (setErr v s).index = s.index := rfl
@[simp] theorem setErr_res0 (v : BitVec 4) (s : State) : (setErr v s).res0 = s.res0 := rfl
@[simp] theorem setErr_res1 (v : BitVec 4) (s : State) : (setErr v s).res1 = s.res1 := rfl
@[simp] theorem setErr_res2 (v : BitVec 4) (s : State) : (setErr v s).res2 = s.res2 := rfl
@[simp] theorem setErr_framesSent (v : BitVec 4) (s : State) : (setErr v s).framesSent = s.framesSent := rfl
@[simp] theorem setErr_errcode (v : BitVec 4) (s : State) : (setErr v s).errcode = v := rfl
@[simp] theorem setErr_matchBit (v : BitVec 4) (s : State) : (setErr v s).matchBit = s.matchBit := rfl
@[simp] theorem setErr_eng (v : BitVec 4) (s : State) : (setErr v s).eng = s.eng := rfl
@[simp] theorem setErr_queue (v : BitVec 4) (s : State) : (setErr v s).queue = s.queue := rfl
@[simp] theorem setErr_ram (v : BitVec 4) (s : State) : (setErr v s).ram = s.ram := rfl
@[simp] theorem setErr_params (v : BitVec 4) (s : State) : (setErr v s).params = s.params := rfl
@[simp] theorem setErr_rstIn (v : BitVec 4) (s : State) : (setErr v s).rstIn = s.rstIn := rfl
@[simp] theorem setErr_host (v : BitVec 4) (s : State) : (setErr v s).host = s.host := rfl
@[simp] theorem setErr_resp (v : BitVec 4) (s : State) : (setErr v s).resp = s.resp := rfl

/-! ## accept -/

@[simp] theorem accept_src (r0 r1 r2 : Word) (s : State) : (accept r0 r1 r2 s).src = s.src := rfl
@[simp] theorem accept_len (r0 r1 r2 : Word) (s : State) : (accept r0 r1 r2 s).len = s.len := rfl
@[simp] theorem accept_dst (r0 r1 r2 : Word) (s : State) : (accept r0 r1 r2 s).dst = s.dst := rfl
@[simp] theorem accept_plid (r0 r1 r2 : Word) (s : State) : (accept r0 r1 r2 s).plid = s.plid := rfl
@[simp] theorem accept_frm (r0 r1 r2 : Word) (s : State) : (accept r0 r1 r2 s).frm = s.frm := rfl
@[simp] theorem accept_repeatCount (r0 r1 r2 : Word) (s : State) : (accept r0 r1 r2 s).repeatCount = s.repeatCount := rfl
@[simp] theorem accept_index (r0 r1 r2 : Word) (s : State) : (accept r0 r1 r2 s).index = s.index := rfl
@[simp] theorem accept_res0 (r0 r1 r2 : Word) (s : State) : (accept r0 r1 r2 s).res0 = r0 := rfl
@[simp] theorem accept_res1 (r0 r1 r2 : Word) (s : State) : (accept r0 r1 r2 s).res1 = r1 := rfl
@[simp] theorem accept_res2 (r0 r1 r2 : Word) (s : State) : (accept r0 r1 r2 s).res2 = r2 := rfl
@[simp] theorem accept_framesSent (r0 r1 r2 : Word) (s : State) : (accept r0 r1 r2 s).framesSent = s.framesSent := rfl
@[simp] theorem accept_errcode (r0 r1 r2 : Word) (s : State) : (accept r0 r1 r2 s).errcode = 0#4 := rfl
@[simp] theorem accept_matchBit (r0 r1 r2 : Word) (s : State) : (accept r0 r1 r2 s).matchBit = s.matchBit := rfl
@[simp] theorem accept_eng (r0 r1 r2 : Word) (s : State) : (accept r0 r1 r2 s).eng = s.eng := rfl
@[simp] theorem accept_queue (r0 r1 r2 : Word) (s : State) : (accept r0 r1 r2 s).queue = s.queue := rfl
@[simp] theorem accept_ram (r0 r1 r2 : Word) (s : State) : (accept r0 r1 r2 s).ram = s.ram := rfl
@[simp] theorem accept_params (r0 r1 r2 : Word) (s : State) : (accept r0 r1 r2 s).params = s.params := rfl
@[simp] theorem accept_rstIn (r0 r1 r2 : Word) (s : State) : (accept r0 r1 r2 s).rstIn = s.rstIn := rfl
@[simp] theorem accept_host (r0 r1 r2 : Word) (s : State) : (accept r0 r1 r2 s).host = s.host := rfl
@[simp] theorem accept_resp (r0 r1 r2 : Word) (s : State) : (accept r0 r1 r2 s).resp = s.resp := rfl

/-! ## storeBytes -/

@[simp] theorem storeBytes_src (a : Nat) (l : List Byte) (s : State) : (storeBytes a l s).src = s.src := rfl
@[simp] theorem storeBytes_len (a : Nat) (l : List Byte) (s : State) : (storeBytes a l s).len = s.len := rfl
@[simp] theorem storeBytes_dst (a : Nat) (l : List Byte) (s : State) : (storeBytes a l s).dst = s.dst := rfl
@[simp] theorem storeBytes_plid (a : Nat) (l : List Byte) (s : State) : (storeBytes a l s).plid = s.plid := rfl
@[simp] theorem storeBytes_frm (a : Nat) (l : List Byte) (s : State) : (storeBytes a l s).frm = s.frm := rfl
@[simp] theorem storeBytes_repeatCount (a : Nat) (l : List Byte) (s : State) : (storeBytes a l s).repeatCount = s.repeatCount := rfl
@[simp] theorem storeBytes_index (a : Nat) (l : List Byte) (s : State) : (storeBytes a l s).index = s.index := rfl
@[simp] theorem storeBytes_res0 (a : Nat) (l : List Byte) (s : State) : (storeBytes a l s).res0 = s.res0 := rfl
@[simp] theorem storeBytes_res1 (a : Nat) (l : List Byte) (s : State) : (storeBytes a l s).res1 = s.res1 := rfl
@[simp] theorem storeBytes_res2 (a : Nat) (l : List Byte) (s : State) : (storeBytes a l s).res2 = s.res2 := rfl
@[simp] theorem storeBytes_framesSent (a : Nat) (l : List Byte) (s : State) : (storeBytes a l s).framesSent = s.framesSent := rfl
@[simp] theorem storeBytes_errcode (a : Nat) (l : List Byte) (s : State) : (storeBytes a l s).errcode = s.errcode := rfl
@[simp] theorem storeBytes_matchBit (a : Nat) (l : List Byte) (s : State) : (storeBytes a l s).matchBit = s.matchBit := rfl
@[simp] theorem storeBytes_eng (a : Nat) (l : List Byte) (s : State) : (storeBytes a l s).eng = s.eng := rfl
@[simp] theorem storeBytes_queue (a : Nat) (l : List Byte) (s : State) : (storeBytes a l s).queue = s.queue := rfl
@[simp] theorem storeBytes_ram (a : Nat) (l : List Byte) (s : State) : (storeBytes a l s).ram = s.ram.writeBytes a l := rfl
@[simp] theorem storeBytes_params (a : Nat) (l : List Byte) (s : State) : (storeBytes a l s).params = s.params := rfl
@[simp] theorem storeBytes_rstIn (a : Nat) (l : List Byte) (s : State) : (storeBytes a l s).rstIn = s.rstIn := rfl
@[simp] theorem storeBytes_host (a : Nat) (l : List Byte) (s : State) : (storeBytes a l s).host = s.host := rfl
@[simp] theorem storeBytes_resp (a : Nat) (l : List Byte) (s : State) : (storeBytes a l s).resp = s.resp := rfl

/-! ## setEngine -/

@[simp] theorem setEngine_src (r : Engine × List QEntry × Word) (s : State) : (setEngine r s).src = s.src := rfl
@[simp] theorem setEngine_len (r : Engine × List QEntry × Word) (s : State) : (setEngine r s).len = s.len := rfl
@[simp] theorem setEngine_dst (r : Engine × List QEntry × Word) (s : State) : (setEngine r s).dst = s.dst := rfl
@[simp] theorem setEngine_plid (r : Engine × List QEntry × Word) (s : State) : (setEngine r s).plid = s.plid := rfl
@[simp] theorem setEngine_frm (r : Engine × List QEntry × Word) (s : State) : (setEngine r s).frm = s.frm := rfl
@[simp] theorem setEngine_repeatCount (r : Engine × List QEntry × Word) (s : State) : (setEngine r s).repeatCount = s.repeatCount := rfl
@[simp] theorem setEngine_index (r : Engine × List QEntry × Word) (s : State) : (setEngine r s).index = s.index := rfl
@[simp] theorem setEngine_res0 (r : Engine × List QEntry × Word) (s : State) : (setEngine r s).res0 = s.res0 := rfl
@[simp] theorem setEngine_res1 (r : Engine × List QEntry × Word) (s : State) : (setEngine r s).res1 = s.res1 := rfl
@[simp] theorem setEngine_res2 (r : Engine × List QEntry × Word) (s : State) : (setEngine r s).res2 = s.res2 := rfl
@[simp] theorem setEngine_framesSent (r : Engine × List QEntry × Word) (s : State) : (setEngine r s).framesSent = r.2.2 := rfl
@[simp] theorem setEngine_errcode (r : Engine × List QEntry × Word) (s : State) : (setEngine r s).errcode = s.errcode := rfl
@[simp] theorem setEngine_matchBit (r : Engine × List QEntry × Word) (s : State) : (setEngine r s).matchBit = s.matchBit := rfl
@[simp] theorem setEngine_eng (r : Engine × List QEntry × Word) (s : State) : (setEngine r s).eng = r.1 := rfl
@[simp] theorem setEngine_queue (r : Engine × List QEntry × Word) (s : State) : (setEngine r s).queue = r.2.1 := rfl
@[simp] theorem setEngine_ram (r : Engine × List QEntry × Word) (s : State) : (setEngine r s).ram = s.ram := rfl
@[simp] theorem setEngine_params (r : Engine × List QEntry × Word) (s : State) : (setEngine r s).params = s.params := rfl
@[simp] theorem setEngine_rstIn (r : Engine × List QEntry × Word) (s : State) : (setEngine r s).rstIn = s.rstIn := rfl
@[simp] theorem setEngine_host (r : Engine × List QEntry × Word) (s : State) : (setEngine r s).host = s.host := rfl
@[simp] theorem setEngine_resp (r : Engine × List QEntry × Word) (s : State) : (setEngine r s).resp = s.resp := rfl

/-! ## The engine's steps: they change the engine, the queue and FRAMES_SENT only -/

@[simp] theorem complete_src (o : Origin) (s : State) : (complete o s).src = s.src := rfl
@[simp] theorem complete_len (o : Origin) (s : State) : (complete o s).len = s.len := rfl
@[simp] theorem complete_dst (o : Origin) (s : State) : (complete o s).dst = s.dst := rfl
@[simp] theorem complete_plid (o : Origin) (s : State) : (complete o s).plid = s.plid := rfl
@[simp] theorem complete_frm (o : Origin) (s : State) : (complete o s).frm = s.frm := rfl
@[simp] theorem complete_repeatCount (o : Origin) (s : State) : (complete o s).repeatCount = s.repeatCount := rfl
@[simp] theorem complete_index (o : Origin) (s : State) : (complete o s).index = s.index := rfl
@[simp] theorem complete_res0 (o : Origin) (s : State) : (complete o s).res0 = s.res0 := rfl
@[simp] theorem complete_res1 (o : Origin) (s : State) : (complete o s).res1 = s.res1 := rfl
@[simp] theorem complete_res2 (o : Origin) (s : State) : (complete o s).res2 = s.res2 := rfl
@[simp] theorem complete_errcode (o : Origin) (s : State) : (complete o s).errcode = s.errcode := rfl
@[simp] theorem complete_matchBit (o : Origin) (s : State) : (complete o s).matchBit = s.matchBit := rfl
@[simp] theorem complete_ram (o : Origin) (s : State) : (complete o s).ram = s.ram := rfl
@[simp] theorem complete_params (o : Origin) (s : State) : (complete o s).params = s.params := rfl
@[simp] theorem complete_rstIn (o : Origin) (s : State) : (complete o s).rstIn = s.rstIn := rfl
@[simp] theorem complete_host (o : Origin) (s : State) : (complete o s).host = s.host := rfl
@[simp] theorem complete_resp (o : Origin) (s : State) : (complete o s).resp = s.resp := rfl

@[simp] theorem launch_src (o : Origin) (l : List Byte) (r : Half) (s : State) :
    (launch o l r s).src = s.src := by
  unfold launch; split <;> rfl
@[simp] theorem launch_len (o : Origin) (l : List Byte) (r : Half) (s : State) :
    (launch o l r s).len = s.len := by
  unfold launch; split <;> rfl
@[simp] theorem launch_dst (o : Origin) (l : List Byte) (r : Half) (s : State) :
    (launch o l r s).dst = s.dst := by
  unfold launch; split <;> rfl
@[simp] theorem launch_plid (o : Origin) (l : List Byte) (r : Half) (s : State) :
    (launch o l r s).plid = s.plid := by
  unfold launch; split <;> rfl
@[simp] theorem launch_frm (o : Origin) (l : List Byte) (r : Half) (s : State) :
    (launch o l r s).frm = s.frm := by
  unfold launch; split <;> rfl
@[simp] theorem launch_repeatCount (o : Origin) (l : List Byte) (r : Half) (s : State) :
    (launch o l r s).repeatCount = s.repeatCount := by
  unfold launch; split <;> rfl
@[simp] theorem launch_index (o : Origin) (l : List Byte) (r : Half) (s : State) :
    (launch o l r s).index = s.index := by
  unfold launch; split <;> rfl
@[simp] theorem launch_res0 (o : Origin) (l : List Byte) (r : Half) (s : State) :
    (launch o l r s).res0 = s.res0 := by
  unfold launch; split <;> rfl
@[simp] theorem launch_res1 (o : Origin) (l : List Byte) (r : Half) (s : State) :
    (launch o l r s).res1 = s.res1 := by
  unfold launch; split <;> rfl
@[simp] theorem launch_res2 (o : Origin) (l : List Byte) (r : Half) (s : State) :
    (launch o l r s).res2 = s.res2 := by
  unfold launch; split <;> rfl
@[simp] theorem launch_errcode (o : Origin) (l : List Byte) (r : Half) (s : State) :
    (launch o l r s).errcode = s.errcode := by
  unfold launch; split <;> rfl
@[simp] theorem launch_matchBit (o : Origin) (l : List Byte) (r : Half) (s : State) :
    (launch o l r s).matchBit = s.matchBit := by
  unfold launch; split <;> rfl
@[simp] theorem launch_ram (o : Origin) (l : List Byte) (r : Half) (s : State) :
    (launch o l r s).ram = s.ram := by
  unfold launch; split <;> rfl
@[simp] theorem launch_params (o : Origin) (l : List Byte) (r : Half) (s : State) :
    (launch o l r s).params = s.params := by
  unfold launch; split <;> rfl
@[simp] theorem launch_rstIn (o : Origin) (l : List Byte) (r : Half) (s : State) :
    (launch o l r s).rstIn = s.rstIn := by
  unfold launch; split <;> rfl
@[simp] theorem launch_host (o : Origin) (l : List Byte) (r : Half) (s : State) :
    (launch o l r s).host = s.host := by
  unfold launch; split <;> rfl
@[simp] theorem launch_resp (o : Origin) (l : List Byte) (r : Half) (s : State) :
    (launch o l r s).resp = s.resp := by
  unfold launch; split <;> rfl

@[simp] theorem tick_src (s : State) : (tick s).src = s.src := by
  unfold tick; split
  · rfl
  · split <;> rfl
@[simp] theorem tick_len (s : State) : (tick s).len = s.len := by
  unfold tick; split
  · rfl
  · split <;> rfl
@[simp] theorem tick_dst (s : State) : (tick s).dst = s.dst := by
  unfold tick; split
  · rfl
  · split <;> rfl
@[simp] theorem tick_plid (s : State) : (tick s).plid = s.plid := by
  unfold tick; split
  · rfl
  · split <;> rfl
@[simp] theorem tick_frm (s : State) : (tick s).frm = s.frm := by
  unfold tick; split
  · rfl
  · split <;> rfl
@[simp] theorem tick_repeatCount (s : State) : (tick s).repeatCount = s.repeatCount := by
  unfold tick; split
  · rfl
  · split <;> rfl
@[simp] theorem tick_index (s : State) : (tick s).index = s.index := by
  unfold tick; split
  · rfl
  · split <;> rfl
@[simp] theorem tick_res0 (s : State) : (tick s).res0 = s.res0 := by
  unfold tick; split
  · rfl
  · split <;> rfl
@[simp] theorem tick_res1 (s : State) : (tick s).res1 = s.res1 := by
  unfold tick; split
  · rfl
  · split <;> rfl
@[simp] theorem tick_res2 (s : State) : (tick s).res2 = s.res2 := by
  unfold tick; split
  · rfl
  · split <;> rfl
@[simp] theorem tick_errcode (s : State) : (tick s).errcode = s.errcode := by
  unfold tick; split
  · rfl
  · split <;> rfl
@[simp] theorem tick_matchBit (s : State) : (tick s).matchBit = s.matchBit := by
  unfold tick; split
  · rfl
  · split <;> rfl
@[simp] theorem tick_ram (s : State) : (tick s).ram = s.ram := by
  unfold tick; split
  · rfl
  · split <;> rfl
@[simp] theorem tick_params (s : State) : (tick s).params = s.params := by
  unfold tick; split
  · rfl
  · split <;> rfl
@[simp] theorem tick_rstIn (s : State) : (tick s).rstIn = s.rstIn := by
  unfold tick; split
  · rfl
  · split <;> rfl
@[simp] theorem tick_host (s : State) : (tick s).host = s.host := by
  unfold tick; split
  · rfl
  · split <;> rfl
@[simp] theorem tick_resp (s : State) : (tick s).resp = s.resp := by
  unfold tick; split
  · rfl
  · split <;> rfl

@[simp] theorem startIfIdle_src (s : State) : (startIfIdle s).src = s.src := by
  unfold startIfIdle; split
  · exact launch_src _ _ _ _
  · rfl
@[simp] theorem startIfIdle_len (s : State) : (startIfIdle s).len = s.len := by
  unfold startIfIdle; split
  · exact launch_len _ _ _ _
  · rfl
@[simp] theorem startIfIdle_dst (s : State) : (startIfIdle s).dst = s.dst := by
  unfold startIfIdle; split
  · exact launch_dst _ _ _ _
  · rfl
@[simp] theorem startIfIdle_plid (s : State) : (startIfIdle s).plid = s.plid := by
  unfold startIfIdle; split
  · exact launch_plid _ _ _ _
  · rfl
@[simp] theorem startIfIdle_frm (s : State) : (startIfIdle s).frm = s.frm := by
  unfold startIfIdle; split
  · exact launch_frm _ _ _ _
  · rfl
@[simp] theorem startIfIdle_repeatCount (s : State) : (startIfIdle s).repeatCount = s.repeatCount := by
  unfold startIfIdle; split
  · exact launch_repeatCount _ _ _ _
  · rfl
@[simp] theorem startIfIdle_index (s : State) : (startIfIdle s).index = s.index := by
  unfold startIfIdle; split
  · exact launch_index _ _ _ _
  · rfl
@[simp] theorem startIfIdle_res0 (s : State) : (startIfIdle s).res0 = s.res0 := by
  unfold startIfIdle; split
  · exact launch_res0 _ _ _ _
  · rfl
@[simp] theorem startIfIdle_res1 (s : State) : (startIfIdle s).res1 = s.res1 := by
  unfold startIfIdle; split
  · exact launch_res1 _ _ _ _
  · rfl
@[simp] theorem startIfIdle_res2 (s : State) : (startIfIdle s).res2 = s.res2 := by
  unfold startIfIdle; split
  · exact launch_res2 _ _ _ _
  · rfl
@[simp] theorem startIfIdle_errcode (s : State) : (startIfIdle s).errcode = s.errcode := by
  unfold startIfIdle; split
  · exact launch_errcode _ _ _ _
  · rfl
@[simp] theorem startIfIdle_matchBit (s : State) : (startIfIdle s).matchBit = s.matchBit := by
  unfold startIfIdle; split
  · exact launch_matchBit _ _ _ _
  · rfl
@[simp] theorem startIfIdle_ram (s : State) : (startIfIdle s).ram = s.ram := by
  unfold startIfIdle; split
  · exact launch_ram _ _ _ _
  · rfl
@[simp] theorem startIfIdle_params (s : State) : (startIfIdle s).params = s.params := by
  unfold startIfIdle; split
  · exact launch_params _ _ _ _
  · rfl
@[simp] theorem startIfIdle_rstIn (s : State) : (startIfIdle s).rstIn = s.rstIn := by
  unfold startIfIdle; split
  · exact launch_rstIn _ _ _ _
  · rfl
@[simp] theorem startIfIdle_host (s : State) : (startIfIdle s).host = s.host := by
  unfold startIfIdle; split
  · exact launch_host _ _ _ _
  · rfl
@[simp] theorem startIfIdle_resp (s : State) : (startIfIdle s).resp = s.resp := by
  unfold startIfIdle; split
  · exact launch_resp _ _ _ _
  · rfl

/-! ## Reset -/

@[simp] theorem resetEdge_src (s : State) : (resetEdge s).src = State.reset.src := rfl
@[simp] theorem resetEdge_len (s : State) : (resetEdge s).len = State.reset.len := rfl
@[simp] theorem resetEdge_dst (s : State) : (resetEdge s).dst = State.reset.dst := rfl
@[simp] theorem resetEdge_plid (s : State) : (resetEdge s).plid = State.reset.plid := rfl
@[simp] theorem resetEdge_frm (s : State) : (resetEdge s).frm = State.reset.frm := rfl
@[simp] theorem resetEdge_repeatCount (s : State) : (resetEdge s).repeatCount = State.reset.repeatCount := rfl
@[simp] theorem resetEdge_index (s : State) : (resetEdge s).index = State.reset.index := rfl
@[simp] theorem resetEdge_res0 (s : State) : (resetEdge s).res0 = State.reset.res0 := rfl
@[simp] theorem resetEdge_res1 (s : State) : (resetEdge s).res1 = State.reset.res1 := rfl
@[simp] theorem resetEdge_res2 (s : State) : (resetEdge s).res2 = State.reset.res2 := rfl
@[simp] theorem resetEdge_framesSent (s : State) : (resetEdge s).framesSent = State.reset.framesSent := rfl
@[simp] theorem resetEdge_errcode (s : State) : (resetEdge s).errcode = State.reset.errcode := rfl
@[simp] theorem resetEdge_matchBit (s : State) : (resetEdge s).matchBit = State.reset.matchBit := rfl
@[simp] theorem resetEdge_eng (s : State) : (resetEdge s).eng = State.reset.eng := rfl
@[simp] theorem resetEdge_queue (s : State) : (resetEdge s).queue = State.reset.queue := rfl
@[simp] theorem resetEdge_ram (s : State) : (resetEdge s).ram = s.ram := rfl
@[simp] theorem resetEdge_params (s : State) : (resetEdge s).params = s.params := rfl
@[simp] theorem resetEdge_rstIn (s : State) : (resetEdge s).rstIn = s.rstIn := rfl
@[simp] theorem resetEdge_host (s : State) : (resetEdge s).host = s.host := rfl
@[simp] theorem resetEdge_resp (s : State) : (resetEdge s).resp = State.reset.resp := rfl

end Sys2Proof.Machine
end

