-- ==== Sys2Proof/Laws/Engine.lean ====
section
/-! SUPPORT. What the engine's operations can do, said once: startQueue, complete, launch, tick, startIfIdle. -/

namespace Sys2Proof.Machine

/-- An engine and a queue as a completion leaves them: idle with nothing queued, or at the first clock of the queue's head,
whose duration is not 0; what is still queued was queued before. -/
def StartsFrom (p : Params) (q : List QEntry) (e : Engine) (q' : List QEntry) : Prop :=
  (e = .idle ∧ q' = []) ∨
    ∃ x r, e = .active .queued x.frame x.repeats 0 ∧ q' = x :: r ∧ 0 < duration p x.frame x.repeats ∧ q' <:+ q

theorem startQueue_cases (p : Params) (q : List QEntry) (n : Word) :
    StartsFrom p q (startQueue p q n).1 (startQueue p q n).2.1 := by
  induction q generalizing n with
  | nil => exact .inl ⟨rfl, rfl⟩
  | cons e q ih =>
    rw [startQueue]
    split
    · rcases ih (n + 1#32) with h | ⟨x, r, h1, h2, h3, h4⟩
      · exact .inl h
      · exact .inr ⟨x, r, h1, h2, h3, h4.trans (List.suffix_cons ..)⟩
    · exact .inr ⟨e, q, rfl, rfl, by omega, List.suffix_refl _⟩

theorem releaseHead_suffix (o : Origin) (q : List QEntry) : releaseHead o q <:+ q := by
  cases o
  · exact List.suffix_refl _
  · exact List.tail_suffix q

/-- `Complete` leaves the engine idle over an empty queue, or at the start of a queued frame. -/
theorem complete_cases (o : Origin) (s : State) :
    StartsFrom s.params (releaseHead o s.queue) (complete o s).eng (complete o s).queue :=
  startQueue_cases ..

/-- A launch completes at once when its duration is 0, and otherwise sets the engine to its first clock. -/
theorem launch_cases (o : Origin) (f : List Byte) (r : Half) (s : State) :
    (duration s.params f r = 0 ∧ launch o f r s = complete o s) ∨
      (0 < duration s.params f r ∧ launch o f r s = { s with eng := .active o f r 0 }) := by
  unfold launch
  split
  · exact .inl ⟨‹_›, rfl⟩
  · exact .inr ⟨by omega, rfl⟩

/-- A tick does nothing to an idle engine, advances an active one by one clock, or completes it. -/
theorem tick_cases (s : State) :
    (s.eng = .idle ∧ tick s = s) ∨
      ∃ o f r t, s.eng = .active o f r t ∧
        ((t + 1 < duration s.params f r ∧ tick s = { s with eng := .active o f r (t + 1) }) ∨
          (duration s.params f r ≤ t + 1 ∧ tick s = complete o s)) := by
  cases h : s.eng with
  | idle => exact .inl ⟨rfl, by simp [tick, h]⟩
  | active o f r t =>
    refine .inr ⟨o, f, r, t, rfl, ?_⟩
    by_cases ht : t + 1 < duration s.params f r
    · exact .inl ⟨ht, by simp [tick, h, ht]⟩
    · exact .inr ⟨by omega, by simp [tick, h, ht]⟩

/-- A tick changes the engine, the queue and FRAMES_SENT alone. -/
theorem tick_frame (s : State) :
    tick s = { s with eng := (tick s).eng, queue := (tick s).queue, framesSent := (tick s).framesSent } := by
  rcases tick_cases s with ⟨_, h⟩ | ⟨o, f, r, t, _, ⟨_, h⟩ | ⟨_, h⟩⟩
  · rw [h]
  · rw [h]
  · rw [h]; rfl

/-- A tick does not read the coming levels of `rst`. -/
theorem tick_setRst (s : State) (r : List Bool) : tick { s with rstIn := r } = { tick s with rstIn := r } := by
  unfold tick
  dsimp only
  split
  · rfl
  · split <;> rfl

/-- QUEUE starts the head of the queue on an idle engine and does nothing otherwise. -/
theorem startIfIdle_cases (s : State) :
    (∃ e q, s.eng = .idle ∧ s.queue = e :: q ∧ startIfIdle s = launch .queued e.frame e.repeats s) ∨
      ((s.eng ≠ .idle ∨ s.queue = []) ∧ startIfIdle s = s) := by
  cases he : s.eng with
  | idle =>
    cases hq : s.queue with
    | nil => exact .inr ⟨.inr rfl, by simp [startIfIdle, he, hq]⟩
    | cons e q => exact .inl ⟨e, q, rfl, rfl, by simp [startIfIdle, he, hq]⟩
  | active o f r t => exact .inr ⟨.inl (by simp), by simp [startIfIdle, he]⟩

end Sys2Proof.Machine
end

