-- ==== Sys2Proof/Laws/Memory.lean ====
section
/-! SUPPORT. The laws of buffer RAM: a read after a write, what a write leaves alone, the canonical form, and the byte
lists that commands read and write. -/

namespace Sys2Proof.Machine

/-! ## One byte -/

@[simp] theorem Memory.read_nil (a : Nat) : Memory.read [] a = none := rfl

theorem Memory.read_cons (k : Nat) (b : Byte) (m : Memory) (a : Nat) :
    Memory.read ((k, b) :: m) a = if k = a then some b else m.read a := rfl

@[simp] theorem Memory.read_write_same (m : Memory) (a : Nat) (v : Byte) : (m.write a v).read a = some v := by
  induction m with
  | nil => simp [Memory.write, Memory.read]
  | cons c m ih =>
    obtain ⟨k, b⟩ := c
    unfold Memory.write
    split
    · simp [Memory.read]
    · split
      · simp [Memory.read]
      · rename_i h1 h2
        rw [Memory.read_cons, if_neg (fun e => h2 e.symm)]
        exact ih

theorem Memory.read_write_other (m : Memory) {a x : Nat} (v : Byte) (h : x ≠ a) : (m.write a v).read x = m.read x := by
  induction m with
  | nil => simp [Memory.write, Memory.read, Ne.symm h]
  | cons c m ih =>
    obtain ⟨k, b⟩ := c
    unfold Memory.write
    split
    · rw [Memory.read_cons, if_neg (Ne.symm h)]
    · split
      · rename_i h1 h2
        subst h2
        rw [Memory.read_cons, if_neg (Ne.symm h), Memory.read_cons, if_neg (Ne.symm h)]
      · rw [Memory.read_cons, Memory.read_cons, ih]

theorem Memory.read_write (m : Memory) (a x : Nat) (v : Byte) :
    (m.write a v).read x = if x = a then some v else m.read x := by
  split
  · rename_i h; subst h; exact Memory.read_write_same m x v
  · rename_i h; exact Memory.read_write_other m v h

/-! ## The canonical form -/

/-- The canonical form as a pairwise order of the addresses. -/
theorem Memory.wf_iff_pairwise (m : Memory) : m.wf = true ↔ m.Pairwise (fun x y => x.1 < y.1) := by
  induction m with
  | nil => simp [Memory.wf]
  | cons c m ih =>
    obtain ⟨a, u⟩ := c
    cases m with
    | nil => simp [Memory.wf]
    | cons d m =>
      obtain ⟨b, v⟩ := d
      rw [Memory.wf, Bool.and_eq_true, decide_eq_true_iff, ih, List.pairwise_cons (a := (a, u))]
      constructor
      · rintro ⟨hab, hp⟩
        refine ⟨fun y hy => ?_, hp⟩
        rcases List.mem_cons.mp hy with rfl | hy
        · exact hab
        · exact Nat.lt_trans hab ((List.pairwise_cons.mp hp).1 y hy)
      · rintro ⟨hall, hp⟩
        exact ⟨hall (b, v) (List.mem_cons_self ..), hp⟩

/-- Every address listed after a write is the written one or was listed before. -/
theorem Memory.mem_write {m : Memory} {a : Nat} {v : Byte} {c : Host.Cell} (h : c ∈ m.write a v) :
    c.1 = a ∨ c ∈ m := by
  induction m with
  | nil => simp [Memory.write] at h; exact .inl (by rw [h])
  | cons d m ih =>
    obtain ⟨k, b⟩ := d
    unfold Memory.write at h
    split at h
    · rcases List.mem_cons.mp h with rfl | h
      · exact .inl rfl
      · exact .inr h
    · split at h
      · rcases List.mem_cons.mp h with rfl | h
        · exact .inl rfl
        · exact .inr (List.mem_cons_of_mem _ h)
      · rcases List.mem_cons.mp h with rfl | h
        · exact .inr (List.mem_cons_self ..)
        · rcases ih h with h | h
          · exact .inl h
          · exact .inr (List.mem_cons_of_mem _ h)

theorem Memory.write_keeps_wf {m : Memory} (a : Nat) (v : Byte) (h : m.wf = true) : (m.write a v).wf = true := by
  rw [Memory.wf_iff_pairwise] at h ⊢
  induction m with
  | nil => simp [Memory.write]
  | cons c m ih =>
    obtain ⟨k, b⟩ := c
    obtain ⟨hk, hm⟩ := List.pairwise_cons.mp h
    unfold Memory.write
    split
    · rename_i hlt
      refine List.pairwise_cons.mpr ⟨fun y hy => ?_, h⟩
      rcases List.mem_cons.mp hy with rfl | hy
      · exact hlt
      · exact Nat.lt_trans hlt (hk y hy)
    · split
      · rename_i _ he
        subst he
        exact List.pairwise_cons.mpr ⟨hk, hm⟩
      · rename_i h1 h2
        refine List.pairwise_cons.mpr ⟨fun y hy => ?_, ih hm⟩
        rcases Memory.mem_write hy with hy | hy
        · show k < y.1
          omega
        · exact hk y hy

theorem Memory.writeBytes_keeps_wf {m : Memory} (a : Nat) (l : List Byte) (h : m.wf = true) :
    (m.writeBytes a l).wf = true := by
  induction l generalizing m a with
  | nil => exact h
  | cons b l ih => exact ih (a + 1) (Memory.write_keeps_wf a b h)

theorem Memory.below_iff (m : Memory) (n : Nat) : m.below n = true ↔ ∀ c ∈ m, c.1 < n := by
  simp [Memory.below, List.all_eq_true]

theorem Memory.write_keeps_below {m : Memory} {n a : Nat} (v : Byte) (h : m.below n = true) (ha : a < n) :
    (m.write a v).below n = true := by
  rw [Memory.below_iff] at h ⊢
  intro c hc
  rcases Memory.mem_write hc with e | hc
  · omega
  · exact h c hc

theorem Memory.writeBytes_keeps_below {m : Memory} {n a : Nat} {l : List Byte} (h : m.below n = true)
    (hl : a + l.length ≤ n) : (m.writeBytes a l).below n = true := by
  induction l generalizing m a with
  | nil => exact h
  | cons b l ih =>
    rw [List.length_cons] at hl
    exact ih (Memory.write_keeps_below b h (by omega)) (by omega)

/-! ## Byte lists -/

/-- A byte outside the written region reads as before. -/
theorem Memory.read_writeBytes_outside (m : Memory) (a : Nat) (l : List Byte) {x : Nat} (h : x < a ∨ a + l.length ≤ x) :
    (m.writeBytes a l).read x = m.read x := by
  induction l generalizing m a with
  | nil => rfl
  | cons b l ih =>
    rw [List.length_cons] at h
    rw [Memory.writeBytes, ih (m.write a b) (a + 1) (by omega), Memory.read_write_other _ _ (by omega)]

/-- A byte inside the written region reads as the byte written there. -/
theorem Memory.read_writeBytes_inside (m : Memory) (a : Nat) (l : List Byte) {k : Nat} (h : k < l.length) :
    (m.writeBytes a l).read (a + k) = some (l[k]'h) := by
  induction l generalizing m a k with
  | nil => simp at h
  | cons b l ih =>
    cases k with
    | zero =>
      rw [Memory.writeBytes, Memory.read_writeBytes_outside _ _ _ (by omega)]
      exact Memory.read_write_same m a b
    | succ k =>
      have := ih (m.write a b) (a + 1) (k := k) (by simpa using h)
      rw [Memory.writeBytes, show a + (k + 1) = a + 1 + k by omega, this]
      rfl

/-- What a successful `Bytes(a, n)` answers: n bytes, each the byte read at its address. -/
theorem Memory.readBytes_ok_iff (m : Memory) (a n : Nat) (l : List Byte) :
    m.readBytes a n = .ok l ↔ l.length = n ∧ ∀ k (h : k < l.length), m.read (a + k) = some (l[k]'h) := by
  induction n generalizing a l with
  | zero =>
    simp only [Memory.readBytes, Except.ok.injEq]
    constructor
    · rintro rfl; exact ⟨rfl, fun k h => absurd h (by simp)⟩
    · rintro ⟨h, _⟩; exact (List.length_eq_zero_iff.mp h).symm
  | succ n ih =>
    rw [Memory.readBytes]
    cases hb : m.read a with
    | none =>
      simp only [reduceCtorEq, false_iff, not_and]
      intro hl hall
      have := hall 0 (by omega)
      simp [hb] at this
    | some b =>
      cases hr : m.readBytes (a + 1) n with
      | error e =>
        simp only [reduceCtorEq, false_iff, not_and]
        intro hl hall
        cases l with
        | nil => simp at hl
        | cons c l =>
          have : m.readBytes (a + 1) n = .ok l := by
            rw [ih]
            refine ⟨by simpa using hl, fun k h => ?_⟩
            have := hall (k + 1) (by simpa using h)
            rw [show a + 1 + k = a + (k + 1) by omega, this]; rfl
          rw [hr] at this; cases this
      | ok r =>
        have hr' := (ih (a + 1) r).mp hr
        simp only [Except.ok.injEq]
        constructor
        · rintro rfl
          refine ⟨by simp [hr'.1], fun k h => ?_⟩
          cases k with
          | zero => simpa using hb
          | succ k =>
            have := hr'.2 k (by simpa using h)
            rw [show a + (k + 1) = a + 1 + k by omega, this]; rfl
        · rintro ⟨hl, hall⟩
          cases l with
          | nil => simp at hl
          | cons c l =>
            have h0 := hall 0 (by simp)
            have hcb : b = c := by
              have h0' : some b = some c := by rw [← hb]; simpa using h0
              exact Option.some.inj h0'
            have hl' : m.readBytes (a + 1) n = .ok l := by
              rw [ih]
              refine ⟨by simpa using hl, fun k h => ?_⟩
              have := hall (k + 1) (by simpa using h)
              rw [show a + 1 + k = a + (k + 1) by omega, this]; rfl
            rw [hr] at hl'
            rw [hcb, Except.ok.inj hl']

theorem Memory.readBytes_length {m : Memory} {a n : Nat} {l : List Byte} (h : m.readBytes a n = .ok l) : l.length = n :=
  ((Memory.readBytes_ok_iff m a n l).mp h).1

/-- `Bytes` after `WriteBytes` to the same region gives the bytes written. -/
theorem Memory.readBytes_writeBytes_same (m : Memory) (a : Nat) (l : List Byte) :
    (m.writeBytes a l).readBytes a l.length = .ok l :=
  (Memory.readBytes_ok_iff _ _ _ _).mpr ⟨rfl, fun _ h => Memory.read_writeBytes_inside m a l h⟩

/-- `Bytes` of a region is a function of that region's bytes only. -/
theorem Memory.readBytes_congr {m m' : Memory} {a n : Nat} (h : ∀ k, k < n → m.read (a + k) = m'.read (a + k)) :
    m.readBytes a n = m'.readBytes a n := by
  induction n generalizing a with
  | zero => rfl
  | succ n ih =>
    have h0 := h 0 (by omega)
    have ht : m.readBytes (a + 1) n = m'.readBytes (a + 1) n := ih fun k hk => by
      have := h (k + 1) (by omega)
      rwa [show a + 1 + k = a + (k + 1) by omega]
    simp only [Nat.add_zero] at h0
    rw [Memory.readBytes, Memory.readBytes, h0, ht]

/-- A failing `Bytes(a, n)` names a byte of the region that nothing has written. -/
theorem Memory.readBytes_error {m : Memory} {a n e : Nat} (h : m.readBytes a n = .error e) :
    a ≤ e ∧ e < a + n ∧ m.read e = none := by
  induction n generalizing a with
  | zero => simp [Memory.readBytes] at h
  | succ n ih =>
    rw [Memory.readBytes] at h
    cases hb : m.read a with
    | none =>
      rw [hb] at h
      simp only [Except.error.injEq] at h
      subst h
      exact ⟨Nat.le_refl _, by omega, hb⟩
    | some b =>
      rw [hb] at h
      cases hr : m.readBytes (a + 1) n with
      | error e' =>
        simp only [hr, Except.error.injEq] at h
        subst h
        obtain ⟨h1, h2, h3⟩ := ih hr
        exact ⟨by omega, by omega, h3⟩
      | ok l => simp [hr] at h

/-! ## withBytes -/

theorem withBytes_of_ok {s : State} {a n : Nat} {l : List Byte} (k : List Byte → Result)
    (h : s.ram.readBytes a n = .ok l) : withBytes s a n k = k l := by
  simp [withBytes, h]

/-- A command that reads a region and goes on has read it whole. -/
theorem withBytes_next {s t : State} {a n : Nat} {k : List Byte → Result} (h : withBytes s a n k = .next t) :
    ∃ l, s.ram.readBytes a n = .ok l ∧ k l = .next t := by
  unfold withBytes at h
  split at h
  · rename_i l hl; exact ⟨l, hl, h⟩
  · cases h

/-- A region that holds an unwritten byte is not read: the byte named is unwritten and lies at or before it. -/
theorem Memory.readBytes_unwritten {m : Memory} {a n x : Nat} (hx : m.read x = none) (h1 : a ≤ x) (h2 : x < a + n) :
    ∃ e, m.readBytes a n = .error e ∧ a ≤ e ∧ e ≤ x ∧ m.read e = none := by
  induction n generalizing a with
  | zero => omega
  | succ n ih =>
    rw [Memory.readBytes]
    cases hb : m.read a with
    | none => exact ⟨a, rfl, le_refl a, h1, hb⟩
    | some b =>
      have hne : a ≠ x := by rintro rfl; rw [hx] at hb; cases hb
      obtain ⟨e, he, h3, h4, h5⟩ := ih (a := a + 1) (by omega) (by omega)
      exact ⟨e, by rw [he], by omega, h4, h5⟩

/-- A command that reads a region with an unwritten byte stops with the fault of 20_memory.md R67. -/
theorem withBytes_unwritten {s : State} {a n x : Nat} (k : List Byte → Result) (hx : s.ram.read x = none) (h1 : a ≤ x)
    (h2 : x < a + n) :
    ∃ e, withBytes s a n k = .fault (.unwrittenRam e) ∧ a ≤ e ∧ e ≤ x ∧ s.ram.read e = none := by
  obtain ⟨e, he, h⟩ := Memory.readBytes_unwritten hx h1 h2
  exact ⟨e, by rw [withBytes, he], h⟩

/-- A command that goes on once it has its bytes faults only for an unwritten byte of the region it reads. -/
theorem withBytes_fault {s : State} {a n : Nat} {k : List Byte → Result} {f : Fault} (h : withBytes s a n k = .fault f)
    (hk : ∀ l e, k l ≠ .fault e) : ∃ x, f = .unwrittenRam x ∧ s.ram.read x = none ∧ a ≤ x ∧ x < a + n := by
  unfold withBytes at h
  split at h
  · exact absurd h (hk _ _)
  · rename_i e he
    cases h
    obtain ⟨h1, h2, h3⟩ := Memory.readBytes_error he
    exact ⟨e, rfl, h3, h1, h2⟩

end Sys2Proof.Machine
end

