-- ==== Sys2Proof/Laws/Commands.lean ====
section
/-! SUPPORT. One inversion lemma per command: if the command answers a next state, it rejected, or it was accepted and did
what its rule says. Later proofs cite these and unfold no meaning. -/

namespace Sys2Proof.Machine

theorem reject_eq {c : RejectCode} {s t : State} (h : reject c s = .next t) : t = setErr c.code s := by
  cases h; rfl

theorem execNop_cases {s t : State} (h : execNop s = .next t) : t = setErr 0#4 s := by
  cases h; rfl

theorem execCrc_cases {s t : State} (h : execCrc s = .next t) :
    (¬ inRange s.params (opSrc s) (opLen s) ∧ t = setErr RejectCode.range.code s) ∨
      (inRange s.params (opSrc s) (opLen s) ∧ ∃ l, s.ram.readBytes (opSrc s) (opLen s) = .ok l ∧
        t = accept ((crc16 s.params l).setWidth 32) 0#32 0#32 s) := by
  unfold execCrc at h
  split at h
  · exact .inl ⟨‹_›, reject_eq h⟩
  · obtain ⟨l, hl, hk⟩ := withBytes_next h
    cases hk
    exact .inr ⟨Decidable.not_not.mp ‹_›, l, hl, rfl⟩

/-- What an accepted CRC_CHECK of the frame `f` leaves. -/
def crcChecked (f : List Byte) (s : State) : State :=
  accept ((crc16 s.params (frameBody (frmPp16 s) f)).setWidth 32) ((frameTrailer f).setWidth 32)
    (if headerOk (frmPp16 s) f then 1#32 else 0#32)
    { s with matchBit := headerOk (frmPp16 s) f && crc16 s.params (frameBody (frmPp16 s) f) == frameTrailer f }

theorem execCrcCheck_cases {s t : State} (h : execCrcCheck s = .next t) :
    (opLen s < headerLen (frmPp16 s) + 2 ∧ t = setErr RejectCode.length.code s) ∨
      (headerLen (frmPp16 s) + 2 ≤ opLen s ∧ ¬ inRange s.params (opSrc s) (opLen s) ∧
        t = setErr RejectCode.range.code s) ∨
      (headerLen (frmPp16 s) + 2 ≤ opLen s ∧ inRange s.params (opSrc s) (opLen s) ∧
        ∃ f, s.ram.readBytes (opSrc s) (opLen s) = .ok f ∧ t = crcChecked f s) := by
  unfold execCrcCheck at h
  split at h
  · exact .inl ⟨‹_›, reject_eq h⟩
  · split at h
    · exact .inr (.inl ⟨by omega, ‹_›, reject_eq h⟩)
    · obtain ⟨f, hf, hk⟩ := withBytes_next h
      cases hk
      exact .inr (.inr ⟨by omega, Decidable.not_not.mp ‹_›, f, hf, rfl⟩)

/-- What an accepted BUILD command leaves: the terminated body at DST. -/
def frameStored (body : List Byte) (r1 r2 : Word) (s : State) : State :=
  accept (countWord (terminate s.params body (frmPp16 s)).length) r1 r2
    (storeBytes (opDst s) (terminate s.params body (frmPp16 s)) s)

theorem halfBytes_length (c : Half) : (halfBytes c).length = 2 := rfl

/-- The length of a terminated frame (43_frame_builder.md R121). -/
theorem terminate_length (p : Params) (body : List Byte) (pp16 : Bool) :
    (terminate p body pp16).length = frameLen body.length pp16 := by
  cases pp16 <;> simp [terminate, frameLen, headerLen, pp16Header, halfBytes_length]

theorem pingBody_length (s : State) : (pingBody s).length = 32 := by simp [pingBody, revPlid]
theorem mcuLead_length (s : State) : (mcuLead s).length = 10 := rfl
theorem rawLead_length (s : State) : (rawLead s).length = 6 := rfl

theorem execBuildPing_cases {s t : State} (h : execBuildPing s = .next t) :
    (¬ inRange s.params (opDst s) (frameLen 32 (frmPp16 s)) ∧ t = setErr RejectCode.range.code s) ∨
      (inRange s.params (opDst s) (frameLen 32 (frmPp16 s)) ∧ t = frameStored (pingBody s) 0#32 0#32 s) := by
  unfold execBuildPing at h
  split at h
  · exact .inl ⟨‹_›, reject_eq h⟩
  · cases h
    exact .inr ⟨Decidable.not_not.mp ‹_›, rfl⟩

theorem buildFromPayload_cases {lead : List Byte} {s t : State} (h : buildFromPayload lead s = .next t) :
    ((¬ inRange s.params (opSrc s) (opLen s) ∨
        ¬ inRange s.params (opDst s) (frameLen (lead.length + opLen s) (frmPp16 s))) ∧
        t = setErr RejectCode.range.code s) ∨
      (inRange s.params (opSrc s) (opLen s) ∧
        inRange s.params (opDst s) (frameLen (lead.length + opLen s) (frmPp16 s)) ∧
        overlap (opSrc s) (opLen s) (opDst s) (frameLen (lead.length + opLen s) (frmPp16 s)) ∧
        t = setErr RejectCode.overlap.code s) ∨
      (inRange s.params (opSrc s) (opLen s) ∧
        inRange s.params (opDst s) (frameLen (lead.length + opLen s) (frmPp16 s)) ∧
        ¬ overlap (opSrc s) (opLen s) (opDst s) (frameLen (lead.length + opLen s) (frmPp16 s)) ∧
        ∃ payload, s.ram.readBytes (opSrc s) (opLen s) = .ok payload ∧
          t = frameStored (lead ++ payload) 0#32 0#32 s) := by
  unfold buildFromPayload at h
  split at h
  · exact .inl ⟨‹_›, reject_eq h⟩
  · rename_i hr
    rw [not_or, Decidable.not_not, Decidable.not_not] at hr
    split at h
    · exact .inr (.inl ⟨hr.1, hr.2, ‹_›, reject_eq h⟩)
    · obtain ⟨l, hl, hk⟩ := withBytes_next h
      cases hk
      exact .inr (.inr ⟨hr.1, hr.2, ‹_›, l, hl, rfl⟩)

theorem execBuildData_cases {s t : State} (h : execBuildData s = .next t) :
    (opLen s ≤ dataChunk * opIndex s ∧ t = setErr RejectCode.length.code s) ∨
      (dataChunk * opIndex s < opLen s ∧
        (¬ inRange s.params (opSrc s) (opLen s) ∨
          ¬ inRange s.params (opDst s) (frameLen (12 + chunkCount (opLen s) (opIndex s)) (frmPp16 s))) ∧
        t = setErr RejectCode.range.code s) ∨
      (dataChunk * opIndex s < opLen s ∧ inRange s.params (opSrc s) (opLen s) ∧
        inRange s.params (opDst s) (frameLen (12 + chunkCount (opLen s) (opIndex s)) (frmPp16 s)) ∧
        overlap (opSrc s) (opLen s) (opDst s) (frameLen (12 + chunkCount (opLen s) (opIndex s)) (frmPp16 s)) ∧
        t = setErr RejectCode.overlap.code s) ∨
      (dataChunk * opIndex s < opLen s ∧ inRange s.params (opSrc s) (opLen s) ∧
        inRange s.params (opDst s) (frameLen (12 + chunkCount (opLen s) (opIndex s)) (frmPp16 s)) ∧
        ¬ overlap (opSrc s) (opLen s) (opDst s) (frameLen (12 + chunkCount (opLen s) (opIndex s)) (frmPp16 s)) ∧
        ∃ chunk, s.ram.readBytes (opSrc s + dataChunk * opIndex s) (chunkCount (opLen s) (opIndex s)) = .ok chunk ∧
          t = frameStored (mcuLead s ++ halfBytes s.index ++ chunk) (countWord (chunkCount (opLen s) (opIndex s)))
            (countWord (chunkFrames (opLen s))) s) := by
  unfold execBuildData at h
  dsimp only at h
  split at h
  · exact .inl ⟨‹_›, reject_eq h⟩
  · split at h
    · exact .inr (.inl ⟨by omega, ‹_›, reject_eq h⟩)
    · rename_i hr
      rw [not_or, Decidable.not_not, Decidable.not_not] at hr
      split at h
      · exact .inr (.inr (.inl ⟨by omega, hr.1, hr.2, ‹_›, reject_eq h⟩))
      · obtain ⟨l, hl, hk⟩ := withBytes_next h
        cases hk
        exact .inr (.inr (.inr ⟨by omega, hr.1, hr.2, ‹_›, l, hl, rfl⟩))

/-- What an accepted COMPRESS of the samples `l` writes at DST: the padded coded stream, or the samples themselves. -/
def compressedStream (p : Params) (l : List Byte) : List Byte :=
  if (rle p l).length < l.length then
    rle p l ++ List.replicate (roundUp8 (rle p l).length - (rle p l).length) 0x00#8
  else l

theorem le_roundUp8 (n : Nat) : n ≤ roundUp8 n := by unfold roundUp8; omega

theorem roundUp8_le {n m : Nat} (h : n < m) (hm : m % 8 = 0) : roundUp8 n ≤ m := by unfold roundUp8; omega

theorem compressedStream_length_of_lt {p : Params} {l : List Byte} (h : (rle p l).length < l.length) :
    (compressedStream p l).length = roundUp8 (rle p l).length := by
  have := le_roundUp8 (rle p l).length
  simp [compressedStream, h]
  omega

theorem execCompress_cases {s t : State} (h : execCompress s = .next t) :
    ((opLen s = 0 ∨ opLen s % 8 ≠ 0) ∧ t = setErr RejectCode.length.code s) ∨
      (¬ (opLen s = 0 ∨ opLen s % 8 ≠ 0) ∧
        (¬ inRange s.params (opSrc s) (opLen s) ∨ ¬ inRange s.params (opDst s) (opLen s)) ∧
        t = setErr RejectCode.range.code s) ∨
      (¬ (opLen s = 0 ∨ opLen s % 8 ≠ 0) ∧ inRange s.params (opSrc s) (opLen s) ∧
        inRange s.params (opDst s) (opLen s) ∧ overlap (opSrc s) (opLen s) (opDst s) (opLen s) ∧
        t = setErr RejectCode.overlap.code s) ∨
      (¬ (opLen s = 0 ∨ opLen s % 8 ≠ 0) ∧ inRange s.params (opSrc s) (opLen s) ∧
        inRange s.params (opDst s) (opLen s) ∧ ¬ overlap (opSrc s) (opLen s) (opDst s) (opLen s) ∧
        ∃ l, s.ram.readBytes (opSrc s) (opLen s) = .ok l ∧
          t = accept (countWord (compressedStream s.params l).length) (countWord (rle s.params l).length)
            (if (rle s.params l).length < opLen s then 1#32 else 0#32)
            (storeBytes (opDst s) (compressedStream s.params l) s)) := by
  unfold execCompress at h
  split at h
  · exact .inl ⟨‹_›, reject_eq h⟩
  · split at h
    · exact .inr (.inl ⟨‹_›, ‹_›, reject_eq h⟩)
    · rename_i hr
      rw [not_or, Decidable.not_not, Decidable.not_not] at hr
      split at h
      · exact .inr (.inr (.inl ⟨‹_›, hr.1, hr.2, ‹_›, reject_eq h⟩))
      · refine .inr (.inr (.inr ⟨‹_›, hr.1, hr.2, ‹_›, ?_⟩))
        obtain ⟨l, hl, hk⟩ := withBytes_next h
        refine ⟨l, hl, ?_⟩
        have hlen := Memory.readBytes_length hl
        dsimp only at hk
        split at hk
        · rename_i hlt
          cases hk
          rw [compressedStream_length_of_lt (by omega)]
          simp [compressedStream, hlen, hlt]
        · rename_i hlt
          cases hk
          simp [compressedStream, hlen, hlt]

theorem packBytes_length (k : Nat) (l : List Byte) : (packBytes k l).length = k := by
  induction k generalizing l with
  | zero => rfl
  | succ k ih => rw [packBytes, List.length_cons, ih]

theorem packSamples_length (l : List Byte) : (packSamples l).length = l.length / 8 := packBytes_length _ _

theorem execPack_cases {s t : State} (h : execPack s = .next t) :
    ((opLen s = 0 ∨ opLen s % 8 ≠ 0) ∧ t = setErr RejectCode.length.code s) ∨
      (¬ (opLen s = 0 ∨ opLen s % 8 ≠ 0) ∧
        (¬ inRange s.params (opSrc s) (opLen s) ∨ ¬ inRange s.params (opDst s) (opLen s / 8)) ∧
        t = setErr RejectCode.range.code s) ∨
      (¬ (opLen s = 0 ∨ opLen s % 8 ≠ 0) ∧ inRange s.params (opSrc s) (opLen s) ∧
        inRange s.params (opDst s) (opLen s / 8) ∧ overlap (opSrc s) (opLen s) (opDst s) (opLen s / 8) ∧
        t = setErr RejectCode.overlap.code s) ∨
      (¬ (opLen s = 0 ∨ opLen s % 8 ≠ 0) ∧ inRange s.params (opSrc s) (opLen s) ∧
        inRange s.params (opDst s) (opLen s / 8) ∧ ¬ overlap (opSrc s) (opLen s) (opDst s) (opLen s / 8) ∧
        ∃ l, s.ram.readBytes (opSrc s) (opLen s) = .ok l ∧
          t = accept (countWord (opLen s / 8)) 0#32 0#32 (storeBytes (opDst s) (packSamples l) s)) := by
  unfold execPack at h
  split at h
  · exact .inl ⟨‹_›, reject_eq h⟩
  · split at h
    · exact .inr (.inl ⟨‹_›, ‹_›, reject_eq h⟩)
    · rename_i hr
      rw [not_or, Decidable.not_not, Decidable.not_not] at hr
      split at h
      · exact .inr (.inr (.inl ⟨‹_›, hr.1, hr.2, ‹_›, reject_eq h⟩))
      · obtain ⟨l, hl, hk⟩ := withBytes_next h
        cases hk
        exact .inr (.inr (.inr ⟨‹_›, hr.1, hr.2, ‹_›, l, hl, rfl⟩))

theorem execTx_cases {s t : State} (h : execTx s = .next t) :
    ((opLen s = 0 ∨ s.params.maxFrame < opLen s) ∧ t = setErr RejectCode.length.code s) ∨
      (¬ (opLen s = 0 ∨ s.params.maxFrame < opLen s) ∧ ¬ inRange s.params (opSrc s) (opLen s) ∧
        t = setErr RejectCode.range.code s) ∨
      (¬ (opLen s = 0 ∨ s.params.maxFrame < opLen s) ∧ inRange s.params (opSrc s) (opLen s) ∧ s.eng ≠ .idle ∧
        t = setErr RejectCode.busy.code s) ∨
      (¬ (opLen s = 0 ∨ s.params.maxFrame < opLen s) ∧ inRange s.params (opSrc s) (opLen s) ∧ s.eng = .idle ∧
        ∃ f, s.ram.readBytes (opSrc s) (opLen s) = .ok f ∧
          t = launch .direct f s.repeatCount (accept 0#32 0#32 0#32 s)) := by
  unfold execTx at h
  split at h
  · exact .inl ⟨‹_›, reject_eq h⟩
  · split at h
    · exact .inr (.inl ⟨‹_›, ‹_›, reject_eq h⟩)
    · rename_i hr
      rw [Decidable.not_not] at hr
      split at h
      · exact .inr (.inr (.inl ⟨‹_›, hr, ‹_›, reject_eq h⟩))
      · rename_i he
        rw [ne_eq, Decidable.not_not] at he
        obtain ⟨f, hf, hk⟩ := withBytes_next h
        cases hk
        exact .inr (.inr (.inr ⟨‹_›, hr, he, f, hf, rfl⟩))

/-- The state after QUEUE has appended the frame and an idle engine has started it. -/
def queuedState (f : List Byte) (s : State) : State :=
  startIfIdle { s with queue := s.queue ++ [⟨f, s.repeatCount⟩] }

theorem execQueue_cases {s t : State} (h : execQueue s = .next t) :
    ((opLen s = 0 ∨ s.params.maxFrame < opLen s) ∧ t = setErr RejectCode.length.code s) ∨
      (¬ (opLen s = 0 ∨ s.params.maxFrame < opLen s) ∧ ¬ inRange s.params (opSrc s) (opLen s) ∧
        t = setErr RejectCode.range.code s) ∨
      (¬ (opLen s = 0 ∨ s.params.maxFrame < opLen s) ∧ inRange s.params (opSrc s) (opLen s) ∧
        s.queue.length = s.params.qDepth ∧ t = setErr RejectCode.qfull.code s) ∨
      (¬ (opLen s = 0 ∨ s.params.maxFrame < opLen s) ∧ inRange s.params (opSrc s) (opLen s) ∧
        s.queue.length ≠ s.params.qDepth ∧
        ∃ f, s.ram.readBytes (opSrc s) (opLen s) = .ok f ∧
          t = accept (countWord (queuedState f s).queue.length) 0#32 0#32 (queuedState f s)) := by
  unfold execQueue at h
  split at h
  · exact .inl ⟨‹_›, reject_eq h⟩
  · split at h
    · exact .inr (.inl ⟨‹_›, ‹_›, reject_eq h⟩)
    · rename_i hr
      rw [Decidable.not_not] at hr
      split at h
      · exact .inr (.inr (.inl ⟨‹_›, hr, ‹_›, reject_eq h⟩))
      · obtain ⟨f, hf, hk⟩ := withBytes_next h
        cases hk
        exact .inr (.inr (.inr ⟨‹_›, hr, ‹_›, f, hf, rfl⟩))

end Sys2Proof.Machine
end

