-- ==== Sys2Proof/Laws/Bus.lean ====
section
/-! SUPPORT. What a host transaction, an edge and a step can do, said once. -/

namespace Sys2Proof.Machine

/-- What a legal bus access can reach: a register by an aligned 32-bit access at its offset, or a naturally aligned region
inside buffer RAM. -/
theorem busTarget_cases {p : Params} {addr : BusAddr} {size : AccessSize} {x : BusTarget}
    (h : busTarget p addr size = .ok x) :
    (∃ r, x = .reg r ∧ size = .word ∧ addr.toNat < 0x40 ∧ addr.toNat % 4 = 0) ∨
      (∃ a, x = .ram a ∧ addr.toNat = ramBase + a ∧ addr.toNat % size.bytes = 0 ∧ a + size.bytes ≤ p.memSize) := by
  unfold busTarget at h
  split at h
  · split at h
    · cases h
    · split at h
      · rename_i hw
        cases h
        exact .inl ⟨_, rfl, hw.1, ‹_›, hw.2⟩
      · cases h
  · split at h
    · cases h
    · split at h
      · cases h
      · split at h
        · cases h
        · cases h
          refine .inr ⟨_, rfl, ?_, ?_, ?_⟩ <;> omega

/-- Every register of the window is reached by an aligned 32-bit access at its offset. -/
@[simp] theorem busTarget_offset (p : Params) (r : Reg) : busTarget p r.offset .word = .ok (.reg r) := by
  cases r <;> rfl

theorem wordBytes_length (w : Word) (n : Nat) : (wordBytes w n).length = n := by simp [wordBytes]

/-- A command issued by a word goes on as the decoded command, or is rejected with OPCODE. -/
theorem cmdIssue_cases {w : Word} {s t : State} (h : cmdIssue w s = .next t) :
    (∃ i, decode w = .ok i ∧ exec i s = .next t) ∨
      (∃ e, decode w = .error e ∧ t = setErr RejectCode.opcode.code s) := by
  unfold cmdIssue at h
  split at h
  · exact .inl ⟨_, ‹_›, h⟩
  · exact .inr ⟨_, ‹_›, reject_eq h⟩

/-- An edge with `rst` low is a Tick followed by the host's slot. -/
theorem step_rst_low {s : State} (h : s.rstIn.head? ≠ some true) :
    step s = hostEdge (tick { s with rstIn := s.rstIn.tail }) := by
  unfold step clockEdge
  split
  · rename_i hr; simp [hr] at h
  · rename_i hr; simp [hr]
  · rename_i hr
    have : ({ s with rstIn := s.rstIn.tail } : State) = s := by
      cases s
      simp only at hr
      subst hr
      rfl
    rw [this]

/-- What one edge can do: a reset edge, or a Tick followed by the host's slot. -/
theorem step_cases {s t : State} (h : step s = .next t) :
    (∃ r, s.rstIn = true :: r ∧ t = resetEdge { s with rstIn := r }) ∨
      (s.rstIn.head? ≠ some true ∧ hostEdge (tick { s with rstIn := s.rstIn.tail }) = .next t) := by
  unfold step clockEdge at h
  split at h
  · rename_i r hr
    cases h
    exact .inl ⟨r, hr, rfl⟩
  · rename_i r hr
    exact .inr ⟨by simp [hr], by simpa [hr] using h⟩
  · rename_i hr
    refine .inr ⟨by simp [hr], ?_⟩
    have : ({ s with rstIn := s.rstIn.tail } : State) = s := by
      cases s
      simp only at hr
      subst hr
      rfl
    rw [this]
    exact h

/-- What the host's slot can do after the Tick. -/
theorem hostEdge_cases {s t : State} (h : hostEdge s = .next t) :
    ((s.host = [] ∨ ∃ q, s.host = .idle :: q) ∧ t = { s with host := s.host.tail, resp := none }) ∨
      (∃ addr size v, s.host.head? = some (.read addr size) ∧ memRead s addr size = .ok v ∧
        t = { s with host := s.host.tail, resp := some (.readOk v) }) ∨
      (∃ addr size v, s.host.head? = some (.write addr size v) ∧
        memWrite addr size v { s with host := s.host.tail, resp := some .writeOk } = .next t) := by
  unfold hostEdge at h
  split at h
  · rename_i hs
    cases h
    exact .inl ⟨.inl hs, by simp [hs]⟩
  · rename_i q hs
    cases h
    exact .inl ⟨.inr ⟨q, hs⟩, by simp [hs]⟩
  · rename_i addr size q hs
    split at h
    · cases h
      exact .inr (.inl ⟨addr, size, _, by simp [hs], ‹_›, by simp [hs]⟩)
    · cases h
  · rename_i addr size v q hs
    exact .inr (.inr ⟨addr, size, v, by simp [hs], by simpa [hs] using h⟩)

/-- What a host write can do: write a register (CMD issues a command), or store its bytes in buffer RAM. -/
theorem memWrite_cases {addr : BusAddr} {size : AccessSize} {v : Word} {s t : State}
    (h : memWrite addr size v s = .next t) :
    (∃ r, busTarget s.params addr size = .ok (.reg r) ∧ writeReg r v s = .next t) ∨
      (∃ a, busTarget s.params addr size = .ok (.ram a) ∧ a + size.bytes ≤ s.params.memSize ∧
        t = storeBytes a (wordBytes v size.bytes) s) := by
  unfold memWrite at h
  split at h
  · cases h
  · exact .inl ⟨_, ‹_›, h⟩
  · rename_i a ha
    cases h
    rcases busTarget_cases ha with ⟨r, hr, _⟩ | ⟨a', ha', _, _, hle⟩
    · cases hr
    · cases ha'
      exact .inr ⟨a, ha, hle, rfl⟩

end Sys2Proof.Machine
end

