-- ==== Sys2Proof/Laws/PerInstr.lean ====
section
/-! SUPPORT. Statements about the commands as syntax, one lemma per constructor. -/

namespace Sys2Proof.Laws.WordFields

/-- The command word of every command has a zero RSVD field, its own OPCODE in bits 7:0, and is a legal word
(30_encoding.md R70, R72, R73). -/
def Statement (i : Instr) : Prop :=
  commandRsvd (encode i) = 0#24 ∧ commandOpcode (encode i) = opcode i ∧ commandWordOk (encode i) = true

theorem nop : Statement .nop := by unfold Statement; decide
theorem crc : Statement .crc := by unfold Statement; decide
theorem crcCheck : Statement .crcCheck := by unfold Statement; decide
theorem buildPing : Statement .buildPing := by unfold Statement; decide
theorem buildMcu : Statement .buildMcu := by unfold Statement; decide
theorem buildRaw : Statement .buildRaw := by unfold Statement; decide
theorem buildData : Statement .buildData := by unfold Statement; decide
theorem compress : Statement .compress := by unfold Statement; decide
theorem pack : Statement .pack := by unfold Statement; decide
theorem tx : Statement .tx := by unfold Statement; decide
theorem queue : Statement .queue := by unfold Statement; decide

end Sys2Proof.Laws.WordFields
end

