-- ==== Sys2Proof/Machine/HostProgram.lean ====
section
/-! DEFINITION. The host program notation and the pseudo-commands of 30_encoding.md R75 and R76, as the slots the host
presents. (`poll` repeats a read until a value is seen: a host program that polls is the schedule of the reads it makes;
log 5.) -/

namespace Sys2Proof.Machine

/-- `wr NAME, v` (R75). -/
def wr (r : Reg) (v : Word) : HostSlot := .write r.offset .word v

/-- `rd NAME` (R75). -/
def rd (r : Reg) : HostSlot := .read r.offset .word

/-- The bus address of M[a] (20_memory.md R51). -/
def ramAddr (a : Nat) : BusAddr := BitVec.ofNat 17 (ramBase + a)

/-- `wb a: b0 b1 ...` (R75): byte writes, one per byte. -/
def wb (a : Nat) : List Byte → List HostSlot
  | [] => []
  | b :: l => .write (ramAddr a) .byte (b.setWidth 32) :: wb (a + 1) l

/-- `rb a, n` (R75): n 1-byte reads. -/
def rb (a n : Nat) : List HostSlot := (List.range n).map fun k => .read (ramAddr (a + k)) .byte

/-- `cmd OP` (R75). -/
def cmd (i : Instr) : HostSlot := wr .cmd (encode i)

/-- `tick n` (R75): n edges with no host transaction. -/
def idleEdges (n : Nat) : List HostSlot := List.replicate n .idle

/-- A FRM value from its fields (10_state.md R33): (pp << 16) | (c << 8) | proto. -/
def frmValue (pp : Bool) (c proto : Byte) : Word := 0#15 ++ BitVec.ofBool pp ++ c ++ proto

/-- `crc s, n` (R76). -/
def pseudoCrc (s n : Word) : List HostSlot := [wr .src s, wr .len n, cmd .crc]

/-- `crccheck s, n, pp` (R76). -/
def pseudoCrcCheck (s n : Word) (pp : Bool) : List HostSlot :=
  [wr .src s, wr .len n, wr .frm (frmValue pp 0#8 0#8), cmd .crcCheck]

/-- `ping d, id, pp` (R76). -/
def pseudoPing (d id : Word) (pp : Bool) : List HostSlot :=
  [wr .dst d, wr .plid id, wr .frm (frmValue pp 0#8 0#8), cmd .buildPing]

/-- `mcu d, id, sub, s, n, pp` (R76). -/
def pseudoMcu (d id : Word) (sub : Byte) (s n : Word) (pp : Bool) : List HostSlot :=
  [wr .src s, wr .len n, wr .dst d, wr .plid id, wr .frm (frmValue pp sub 0#8), cmd .buildMcu]

/-- `raw d, id, proto, c, s, n, pp` (R76). -/
def pseudoRaw (d id : Word) (proto c : Byte) (s n : Word) (pp : Bool) : List HostSlot :=
  [wr .src s, wr .len n, wr .dst d, wr .plid id, wr .frm (frmValue pp c proto), cmd .buildRaw]

/-- `data d, id, sub, s, n, i, pp` (R76). -/
def pseudoData (d id : Word) (sub : Byte) (s n i : Word) (pp : Bool) : List HostSlot :=
  [wr .src s, wr .len n, wr .dst d, wr .plid id, wr .frm (frmValue pp sub 0#8), wr .index i, cmd .buildData]

/-- `compress s, n, d` (R76). -/
def pseudoCompress (s n d : Word) : List HostSlot := [wr .src s, wr .len n, wr .dst d, cmd .compress]

/-- `pack s, n, d` (R76). -/
def pseudoPack (s n d : Word) : List HostSlot := [wr .src s, wr .len n, wr .dst d, cmd .pack]

/-- `tx s, n, r` (R76). -/
def pseudoTx (s n r : Word) : List HostSlot := [wr .src s, wr .len n, wr .repeatCount r, cmd .tx]

/-- `queue s, n, r` (R76). -/
def pseudoQueue (s n r : Word) : List HostSlot := [wr .src s, wr .len n, wr .repeatCount r, cmd .queue]

end Sys2Proof.Machine
end

