-- ==== Sys2Proof/Machine/Timing.lean ====
section
/-! DEFINITION. Durations in seconds (44_ir_engine.md R194) and where the block stands in the system map (20_memory.md
R51). No rule of the block depends on either. -/

namespace Sys2Proof.Machine

/-- A number of clocks of `clk` in seconds. -/
def clocksSeconds (p : Params) (n : Nat) : Rat := (n : Rat) / (p.fClk : Rat)

/-- How long a transmission lasts: D(F, R) / F_CLK (R194). -/
def transmissionSeconds (p : Params) (f : List Byte) (r : Half) : Rat := clocksSeconds p (duration p f r)

/-- The carrier frequency in Hz: F_CLK / (CAR_HI + CAR_LO) (R194). -/
def carrierHz (p : Params) : Rat := (p.fClk : Rat) / (carrierPeriod p : Rat)

/-- How long a symbol's burst lasts (R194). -/
def burstSeconds (p : Params) : Rat := clocksSeconds p (p.burstN * carrierPeriod p)

/-- How long a symbol's pause lasts (R194). -/
def pauseSeconds (p : Params) (s : Symbol) : Rat := clocksSeconds p (pauseOf p s)

/-- The system address of a bus offset: the platform's BLOCK_BASE plus the offset (20_memory.md R51). -/
def systemAddress (p : Params) (a : BusAddr) : Nat := p.blockBase + a.toNat

end Sys2Proof.Machine
end

