-- ==== Sys2Proof/Tests/Slice0.lean ====
section
/-! SUPPORT. Tests of decoding, of each command on one small state, and witnesses that the hypotheses of the obligations
can be met, each clause at a boundary value. Expected values are those of spec/95_test_vectors.md and of the worked
examples of the rules. -/

namespace Sys2Proof.Tests

open Sys2Proof.Machine

/-! ## Helpers -/

/-- The next state of a command or of a step, if there is one. -/
def nextOf : Result → Option State
  | .next t => some t
  | .fault _ => none
  | .refused _ => none

/-- The state after reset with the bytes `l` written from address `a` on. -/
def ramState (a : Nat) (l : List Byte) : State := { State.reset with ram := Memory.writeBytes [] a l }

/-- The three result registers and ERRCODE after a command. -/
def resultsOf (r : Result) : Option (Word × Word × Word × BitVec 4) :=
  (nextOf r).map fun t => (t.res0, t.res1, t.res2, t.errcode)

/-- `n` bytes of RAM from `a` on after a command. -/
def ramOf (a n : Nat) (r : Result) : Option (List (Option Byte)) :=
  (nextOf r).map fun t => (List.range n).map fun k => t.ram.read (a + k)

/-- STATUS after a command or a step. -/
def statusOf (r : Result) : Option Word := (nextOf r).map statusWord

/-- ERRCODE after a command or a step. -/
def errOf (r : Result) : Option (BitVec 4) := (nextOf r).map State.errcode

/-- The frame [1B] at 0x200, ready for TX and QUEUE (44_ir_engine.md R190, R191). -/
def frameState (r : Half) : State :=
  { ramState 0x200 [0x1B#8] with src := 0x200#32, len := 1#32, repeatCount := r }

/-- An engine at clock `t` of Wave([1B], 1), whose duration is 114 under EX1 (R184). -/
def sending (o : Origin) (t : Nat) : Engine := .active o [0x1B#8] 1#16 t

/-! ## Decoding, from the encoding of 30_encoding.md R70 and R72 -/

theorem test_decode_nop : decode 0b00000000000000000000000000000000#32 = .ok .nop := by decide
theorem test_decode_crc : decode 0b00000000000000000000000000000001#32 = .ok .crc := by decide
theorem test_decode_crcCheck : decode 0b00000000000000000000000000000010#32 = .ok .crcCheck := by decide
theorem test_decode_buildPing : decode 0b00000000000000000000000000010000#32 = .ok .buildPing := by decide
theorem test_decode_buildMcu : decode 0b00000000000000000000000000010001#32 = .ok .buildMcu := by decide
theorem test_decode_buildRaw : decode 0b00000000000000000000000000010010#32 = .ok .buildRaw := by decide
theorem test_decode_buildData : decode 0b00000000000000000000000000010011#32 = .ok .buildData := by decide
theorem test_decode_compress : decode 0b00000000000000000000000000100000#32 = .ok .compress := by decide
theorem test_decode_pack : decode 0b00000000000000000000000000100001#32 = .ok .pack := by decide
theorem test_decode_tx : decode 0b00000000000000000000000000110000#32 = .ok .tx := by decide
theorem test_decode_queue : decode 0b00000000000000000000000000110001#32 = .ok .queue := by decide

/-- V-ENC: words that are no command. -/
theorem test_decode_reserved :
    decode 0x110#32 = .error .reservedBits ∧ decode 0x80000000#32 = .error .reservedBits ∧
    decode 0x03#32 = .error .reservedOpcode ∧ decode 0xFF#32 = .error .reservedOpcode := by decide

theorem test_decodeTableWord :
    decodeTableWord 32 0x00000031 = some .queue ∧ decodeTableWord 32 0x00000000 = some .nop ∧
    decodeTableWord 32 0x00000131 = none ∧ decodeTableWord 40 0x100000000 = none := by decide

/-! ## Well-formedness (00_scope.md R6, 30_encoding.md R73): one ill-formed term for each check -/

theorem test_params_wf : Params.specDefault.wf = true := by decide

theorem test_params_ill_formed :
    { Params.specDefault with memSize := 32 }.wf = false ∧ { Params.specDefault with memSize := 65535 }.wf = false ∧
    { Params.specDefault with memSize := 131072 }.wf = false ∧ { Params.specDefault with maxFrame := 37 }.wf = false ∧
    { Params.specDefault with qDepth := 0 }.wf = false ∧ { Params.specDefault with qDepth := 256 }.wf = false ∧
    { Params.specDefault with carHi := 0 }.wf = false ∧ { Params.specDefault with carLo := 0 }.wf = false ∧
    { Params.specDefault with burstN := 0 }.wf = false ∧ { Params.specDefault with termN := 0 }.wf = false ∧
    { Params.specDefault with fClk := 4000000 }.wf = false ∧ { Params.specDefault with pause3 := 5 }.wf = false := by
  decide

theorem test_command_words :
    commandWordOk 0x31#32 = true ∧ commandWordOk 0x110#32 = false ∧ commandWordOk 0x03#32 = false := by decide

/-! ## The commands, at most two tests each -/

/-- V-ERR, P5: NOP clears the error and keeps the results. -/
theorem test_nop :
    resultsOf (exec .nop { State.reset with errcode := 5#4, res0 := 7#32 }) = some (7#32, 0#32, 0#32, 0#4) := by decide

/-- V-CRC: CRC16 of the ASCII digits 123456789. -/
theorem test_crc :
    resultsOf (exec .crc
      { ramState 0x100 [0x31#8, 0x32#8, 0x33#8, 0x34#8, 0x35#8, 0x36#8, 0x37#8, 0x38#8, 0x39#8] with
        src := 0x100#32, len := 9#32 }) = some (0x837F#32, 0#32, 0#32, 0#4) := by decide +kernel

/-- R102: LEN = 0 is accepted and gives the seed; P5: a region past the end is RANGE. -/
theorem test_crc_empty_and_range :
    resultsOf (exec .crc State.reset) = some (0x8408#32, 0#32, 0#32, 0#4) ∧
    errOf (exec .crc { State.reset with src := 0xFFFF#32, len := 2#32 }) = some 3#4 := by decide +kernel

/-- The MCU frame of V-FRM, with its PP16 header. -/
def mcuFrame16 : List Byte :=
  [0x00#8, 0x00#8, 0x00#8, 0x40#8, 0x85#8, 0x32#8, 0x09#8, 0x39#8, 0x30#8, 0x34#8, 0x00#8, 0x00#8, 0x00#8, 0x5A#8,
    0x11#8, 0x22#8, 0x4C#8, 0x85#8]

/-- R103: the MCU frame passes; RES0 = RES1 = its checksum 0x854C. -/
theorem test_crcCheck :
    (nextOf (exec .crcCheck { ramState 0 mcuFrame16 with len := 18#32, frm := 0x10000#17 })).map
      (fun t => (t.matchBit, t.res0, t.res1, t.res2)) = some (true, 0x854C#32, 0x854C#32, 1#32) := by decide +kernel

/-- R103: a wrong header fails although the CRC agrees. -/
theorem test_crcCheck_wrong_header :
    (nextOf (exec .crcCheck
      { ramState 0 (0x01#8 :: mcuFrame16.tail) with len := 18#32, frm := 0x10000#17, matchBit := true })).map
      (fun t => (t.matchBit, t.res0, t.res1, t.res2)) = some (false, 0x854C#32, 0x854C#32, 0#32) := by decide +kernel

/-- V-FRM: PLID = 0, PP16: the last two bytes are 2A E4; RES0 = 38. -/
theorem test_buildPing :
    ramOf 30 8 (exec .buildPing { State.reset with frm := 0x10000#17 }) =
      some [some 0x01#8, some 0x01#8, some 0x01#8, some 0x01#8, some 0x01#8, some 0x01#8, some 0x2A#8, some 0xE4#8] ∧
    resultsOf (exec .buildPing { State.reset with frm := 0x10000#17 }) = some (38#32, 0#32, 0#32, 0#4) := by decide +kernel

/-- V-FRM: 38 bytes end exactly at the end of RAM, or pass it. -/
theorem test_buildPing_range :
    errOf (exec .buildPing { State.reset with dst := 0xFFDA#32, frm := 0x10000#17 }) = some 0#4 ∧
    errOf (exec .buildPing { State.reset with dst := 0xFFE0#32, frm := 0x10000#17 }) = some 3#4 := by decide +kernel

/-- V-FRM: the 18-byte MCU frame. -/
theorem test_buildMcu :
    ramOf 0 18 (exec .buildMcu
      { ramState 0x80 [0x11#8, 0x22#8] with
        src := 0x80#32, len := 2#32, plid := 0x32093930#32, frm := 0x15A00#17 }) = some (mcuFrame16.map some) := by decide +kernel

/-- V-FRM: `mcu 0x100, id, 5A, 0x104, 4, 0` is OVERLAP. -/
theorem test_buildMcu_overlap :
    errOf (exec .buildMcu { State.reset with src := 0x104#32, len := 4#32, dst := 0x100#32 }) = some 4#4 := by decide

/-- V-FRM: the 11-byte raw frame of PROTO 84, CMDB 99, payload 01 02 03. -/
theorem test_buildRaw :
    ramOf 0 11 (exec .buildRaw
      { ramState 0x80 [0x01#8, 0x02#8, 0x03#8] with
        src := 0x80#32, len := 3#32, plid := 0x32093930#32, frm := 0x09984#17 }) =
      some ([0x84#8, 0x32#8, 0x09#8, 0x39#8, 0x30#8, 0x99#8, 0x01#8, 0x02#8, 0x03#8, 0x33#8, 0x84#8].map some) := by decide +kernel

/-- The buffer 00 .. 2C of R126's example. -/
def buffer45 : List Byte := (List.range 45).map (BitVec.ofNat 8)

/-- R126: index 2 of a 45-byte buffer carries five bytes and ends in 8F 75; RES = 23, 5, 3. -/
theorem test_buildData :
    let r := exec .buildData
      { ramState 0x80 buffer45 with
        src := 0x80#32, len := 45#32, plid := 0x32093930#32, frm := 0x15A00#17, index := 2#16 }
    ramOf 14 9 r = some ([0x02#8, 0x00#8, 0x28#8, 0x29#8, 0x2A#8, 0x2B#8, 0x2C#8, 0x8F#8, 0x75#8].map some) ∧
    resultsOf r = some (23#32, 5#32, 3#32, 0#4) := by decide +kernel

/-- V-FRM: there is no frame 3 of 45 bytes, and no frame 2 of 40 bytes. -/
theorem test_buildData_no_such_frame :
    errOf (exec .buildData { State.reset with len := 45#32, index := 3#16 }) = some 2#4 ∧
    errOf (exec .buildData { State.reset with len := 40#32, index := 2#16 }) = some 2#4 := by decide

/-- R114: sixteen samples 00 code in ten; six samples of padding. -/
theorem test_compress :
    let r := exec .compress { ramState 0 (List.replicate 16 0x00#8) with len := 16#32, dst := 0x100#32 }
    ramOf 0x100 16 r =
      some ([0x00#8, 0x00#8, 0x00#8, 0x00#8, 0x00#8, 0x01#8, 0x00#8, 0x00#8, 0x00#8, 0x00#8, 0x00#8, 0x00#8, 0x00#8,
        0x00#8, 0x00#8, 0x00#8].map some) ∧
    resultsOf r = some (16#32, 10#32, 1#32, 0#4) := by decide +kernel

/-- W6: alternating samples are stored raw. -/
theorem test_compress_raw :
    let l := [0x01#8, 0x00#8, 0x01#8, 0x00#8, 0x01#8, 0x00#8, 0x01#8, 0x00#8]
    let r := exec .compress { ramState 0 l with len := 8#32, dst := 8#32 }
    ramOf 8 8 r = some (l.map some) ∧ resultsOf r = some (8#32, 8#32, 0#32, 0#4) := by decide

/-- R116: the samples of the example pack to A1 81. -/
theorem test_pack :
    let r := exec .pack { ramState 0 [0x01#8, 0x00#8, 0x01#8, 0x00#8, 0x00#8, 0x00#8, 0x00#8, 0x01#8,
      0xFF#8, 0x00#8, 0x00#8, 0x00#8, 0x00#8, 0x00#8, 0x00#8, 0x02#8] with len := 16#32, dst := 16#32 }
    ramOf 16 2 r = some [some 0xA1#8, some 0x81#8] ∧ resultsOf r = some (2#32, 0#32, 0#32, 0#4) := by decide

/-- V-PACK: in place is OVERLAP; seven samples are LENGTH. -/
theorem test_pack_errors :
    errOf (exec .pack { State.reset with len := 16#32 }) = some 4#4 ∧
    errOf (exec .pack { State.reset with len := 7#32, dst := 0x100#32 }) = some 2#4 := by decide

/-- V-TX: BUSY at once for one pass; REPEAT = 0 completes within the command. -/
theorem test_tx :
    statusOf (exec .tx (frameState 1#16)) = some 0x00000001#32 ∧
    (nextOf (exec .tx (frameState 0#16))).map (fun t => (statusWord t, t.framesSent)) = some (0#32, 1#32) := by decide

/-- V-ERR: RANGE is reported before BUSY, LENGTH before RANGE; P5: STATUS is 0x53 for a TX while busy. -/
theorem test_tx_errors :
    errOf (exec .tx { State.reset with src := 0xFFFF#32, len := 2#32, eng := sending .direct 0 }) = some 3#4 ∧
    errOf (exec .tx { State.reset with src := 0xFFFF#32 }) = some 2#4 ∧
    statusOf (exec .tx { frameState 1#16 with eng := sending .direct 0, errcode := 0#4 }) = some 0x00000053#32 := by
  decide

/-- V-Q with Q_DEPTH = 2: the second entry fills the queue, the third is QFULL. -/
theorem test_queue :
    let s : State := { frameState 2#16 with
      params := { Params.specDefault with qDepth := 2 }, eng := sending .queued 2, queue := [⟨[0x1B#8], 1#16⟩] }
    statusOf (exec .queue s) = some 0x00010201#32 ∧
    ((nextOf (exec .queue s)).bind fun t => statusOf (exec .queue t)) = some 0x00010263#32 := by decide

/-- V-Q: an idle engine launches at once; with REPEAT = 0 the entry completes at once and RES0 = 0. -/
theorem test_queue_idle :
    statusOf (exec .queue (frameState 1#16)) = some 0x00000101#32 ∧
    (nextOf (exec .queue (frameState 0#16))).map (fun t => (statusWord t, t.res0, t.framesSent)) =
      some (0#32, 0#32, 1#32) := by decide

/-! ## Functions of the rules -/

/-- R181, R184: the symbols of 1B, and the durations of V-TX. -/
theorem test_symbols_and_durations :
    symbols [0x1B#8, 0x85#8] = [0#2, 1#2, 2#2, 3#2, 2#2, 0#2, 1#2, 1#2] ∧
    duration Params.specDefault [0x1B#8] 1#16 = 114 ∧ duration Params.specDefault [0x12#8, 0x34#8] 1#16 = 186 := by
  decide

/-- V-TX: the levels of Wave([1B], 1) around the first pause, and its last clock. -/
theorem test_levels :
    ((List.range 19).map (level (wave Params.specDefault [0x1B#8] 1#16))) =
      [true, true, false, false, true, true, false, false, true, true, false, false, false, false, false, false, false,
        true, true] ∧
    level (wave Params.specDefault [0x1B#8] 1#16) 93 = false ∧
    level (wave Params.specDefault [0x1B#8] 1#16) 91 = true := by decide

/-- R111: the count codes of 1 to 5. -/
theorem test_gamma :
    gamma 1 = [1#8] ∧ gamma 2 = [0#8, 1#8, 0#8] ∧ gamma 3 = [0#8, 1#8, 1#8] ∧ gamma 4 = [0#8, 0#8, 1#8, 0#8, 0#8] ∧
    gamma 5 = [0#8, 0#8, 1#8, 0#8, 1#8] := by decide

/-- V-CMP, row S9: a run of 3 and a run of 21, literal before count code; with the first literal only, the second literal is
left out (R112). -/
theorem test_rle :
    let l : List Byte := List.replicate 3 0x00#8 ++ List.replicate 21 0x01#8
    rle Params.specDefault l =
      [0#8, 0#8, 1#8, 1#8, 1#8, 0#8, 0#8, 0#8, 0#8, 1#8, 0#8, 1#8, 0#8, 1#8] ∧
    rle { Params.specDefault with rleLiteralEveryRun := false, rleCodeUnitRuns := true } l =
      [0#8, 0#8, 1#8, 1#8, 0#8, 0#8, 0#8, 0#8, 1#8, 0#8, 1#8, 0#8, 1#8] := by decide

/-- V-Q: at the last clock the next queued frame starts, and STATUS shows it. -/
theorem test_tick_relaunches :
    let t := tick { State.reset with
      eng := sending .queued 113, queue := [⟨[0x1B#8], 1#16⟩, ⟨[0x1B#8], 2#16⟩], errcode := 5#4 }
    statusWord t = 0x00000153#32 ∧ t.framesSent = 1#32 ∧ t.eng = .active .queued [0x1B#8] 2#16 0 := by decide

/-- V-BUS, R53: a 4-byte write is little-endian; the ID register. -/
theorem test_bus :
    ramOf 0 4 (memWrite 0x10000#17 .word 0x44332211#32 State.reset) =
      some [some 0x11#8, some 0x22#8, some 0x33#8, some 0x44#8] ∧
    memRead State.reset 0x00#17 .word = .ok 0x45534C07#32 ∧
    memRead State.reset 0x10000#17 .byte = .error (.unwrittenRam 0) := by
  exact ⟨by decide, rfl, rfl⟩

/-- From State.reset with nothing presented, a step changes nothing; with a presented command word the next step runs it
(P5: the word 0x110 leaves STATUS = 0x12). -/
theorem test_step_from_reset :
    nextOf (step State.reset) = some State.reset ∧
    statusOf (step (State.reset.withFetchWord 32 0x110)) = some 0x00000012#32 ∧
    resultsOf (step (State.reset.withFetchWord 32 0x01)) = some (0x8408#32, 0#32, 0#32, 0#4) := by decide

/-- V-RST: reset during a transmission clears STATUS and keeps RAM. -/
theorem test_reset_edge :
    let r := step { frameState 1#16 with rstIn := [true], eng := sending .direct 49, framesSent := 1#32 }
    statusOf r = some 0#32 ∧ (nextOf r).map (fun t => (t.framesSent, t.src, irOut t)) = some (0#32, 0#32, false) ∧
    ramOf 0x200 1 r = some [some 0x1B#8] := by decide

/-- R76: `crc s, n` is two operand writes and the CMD write. -/
theorem test_pseudo_crc :
    pseudoCrc 0x100#32 9#32 =
      [.write 0x10#17 .word 0x100#32, .write 0x14#17 .word 9#32, .write 0x08#17 .word 1#32] := by decide

/-! ## Witnesses: states and operands that meet the hypotheses of the obligations, clause by clause -/

/-- An illegal word for each check of R73, and legal ones at the ends of the opcode map. -/
theorem witness_ReservedCommandWordsAreRejected :
    (0x100#32).extractLsb' 8 24 ≠ 0#24 ∧ (0x80000000#32).extractLsb' 8 24 ≠ 0#24 ∧
    (0x03#32).extractLsb' 0 8 ∉ listedOpcodes ∧ (0x32#32).extractLsb' 0 8 ∉ listedOpcodes ∧
    ((0x31#32).extractLsb' 8 24 = 0#24 ∧ (0x31#32).extractLsb' 0 8 ∈ listedOpcodes) ∧
    ((0x00#32).extractLsb' 8 24 = 0#24 ∧ (0x00#32).extractLsb' 0 8 ∈ listedOpcodes) := by decide

theorem witness_StepRunsThePresentedCommand :
    let s : State := { frameState 1#16 with rstIn := [false], host := [.write 0x08#17 .word 0x30#32, .idle] }
    s.rstIn.head? ≠ some true ∧ s.host = .write 0x08#17 .word 0x30#32 :: [.idle] ∧ decode 0x30#32 = .ok .tx := by decide

theorem witness_StepRejectsAnIllegalCommandWord :
    let s : State := { State.reset with host := [.write 0x08#17 .word 0x32#32] }
    s.rstIn.head? ≠ some true ∧ s.host = .write 0x08#17 .word 0x32#32 :: [] ∧ commandWordOk 0x32#32 = false := by decide

theorem witness_ResetEdgeRestoresResetValues :
    let s : State := { frameState 1#16 with rstIn := [true, false], eng := sending .direct 49, framesSent := 1#32 }
    s.rstIn = true :: [false] ∧ 0 < s.params.qDepth := by decide

/-- At clock 0 and at the last clock that a tick still advances. -/
theorem witness_OnlyResetStopsATransmission (k : Nat) (hk : k = 0 ∨ k = 112) :
    let s : State := { State.reset with eng := sending .direct k }
    (∃ t, step s = .next t) ∧ s.rstIn.head? ≠ some true ∧ s.eng = .active .direct [0x1B#8] 1#16 k ∧
      k + 1 < duration s.params [0x1B#8] 1#16 := by
  rcases hk with rfl | rfl <;> exact ⟨⟨_, rfl⟩, by decide, rfl, by decide⟩

theorem witness_StepsKeepTheParameters : ∃ t, step (frameState 1#16) = .next t := ⟨_, rfl⟩

/-- One byte past the end; the last byte of RAM; an empty region at the end. -/
theorem witness_CrcReportsTheRegionChecksum :
    let s : State := ramState 0xFFFF [0x31#8]
    let past : State := { s with src := 0xFFFF#32, len := 2#32 }
    let last : State := { s with src := 0xFFFF#32, len := 1#32 }
    let none : State := { s with src := 0x10000#32 }
    past.params.memSize < past.src.toNat + past.len.toNat ∧
    (last.src.toNat + last.len.toNat ≤ last.params.memSize ∧
      last.ram.readBytes last.src.toNat last.len.toNat = .ok [0x31#8]) ∧
    (none.len = 0#32 ∧ none.src.toNat ≤ none.params.memSize ∧ none.params.crcXorOut = 0#16) :=
  ⟨by decide, ⟨by decide, rfl⟩, by decide⟩

/-- LENGTH at h + 1, RANGE at the end of RAM, and the shortest frames with and without the header. -/
theorem witness_CrcCheckComparesHeaderAndTrailer :
    let s : State := ramState 0 [0x00#8, 0x00#8, 0x00#8, 0x40#8, 0x08#8, 0x84#8]
    let short4 : State := { s with frm := 0x10000#17, len := 5#32 }
    let short : State := { s with len := 1#32 }
    let past : State := { s with src := 0xFFFF#32, len := 2#32 }
    let least4 : State := { s with frm := 0x10000#17, len := 6#32 }
    let least : State := { s with src := 4#32, len := 2#32 }
    short4.len.toNat < 4 + 2 ∧ short.len.toNat < 0 + 2 ∧
    (0 + 2 ≤ past.len.toNat ∧ past.params.memSize < past.src.toNat + past.len.toNat) ∧
    (least4.src.toNat + least4.len.toNat ≤ least4.params.memSize ∧ least4.frm.getLsbD 16 = true ∧
      least4.ram.readBytes least4.src.toNat least4.len.toNat =
        .ok ([0x00#8, 0x00#8, 0x00#8, 0x40#8] ++ [] ++ [0x08#8, 0x84#8])) ∧
    (least.src.toNat + least.len.toNat ≤ least.params.memSize ∧ least.frm.getLsbD 16 = false ∧
      least.ram.readBytes least.src.toNat least.len.toNat = .ok ([] ++ [] ++ [0x08#8, 0x84#8])) :=
  ⟨by decide, by decide, by decide, ⟨by decide, by decide, rfl⟩, ⟨by decide, by decide, rfl⟩⟩

/-- A ping frame that ends at the end of RAM, and one that passes it by a byte. -/
theorem witness_BuildPingStoresThePingFrame :
    let s : State := { State.reset with frm := 0x10000#17 }
    let past : State := { s with dst := 0xFFDB#32 }
    let last : State := { s with dst := 0xFFDA#32 }
    past.params.memSize < past.dst.toNat + 38 ∧ last.dst.toNat + 38 ≤ last.params.memSize := by decide

/-- BUILD_MCU and BUILD_RAW with a one-byte payload: past the end, sharing the last byte, and adjacent regions. `n` is the
frame's length: 13 for BUILD_MCU, 9 for BUILD_RAW. -/
theorem witness_BuildFromPayload (n : Nat) (hn : n = 13 ∨ n = 9) :
    let s : State := { ramState 0x100 [0xAB#8] with src := 0x100#32, len := 1#32 }
    let past : State := { s with dst := BitVec.ofNat 32 (0x10001 - n) }
    let shared : State := { s with dst := BitVec.ofNat 32 (0x101 - n) }
    let ok : State := { s with dst := BitVec.ofNat 32 (0x100 - n) }
    ¬ (past.src.toNat + 1 ≤ past.params.memSize ∧ past.dst.toNat + n ≤ past.params.memSize) ∧
    ((shared.src.toNat + 1 ≤ shared.params.memSize ∧ shared.dst.toNat + n ≤ shared.params.memSize) ∧
      overlap shared.src.toNat 1 shared.dst.toNat n) ∧
    ((ok.src.toNat + 1 ≤ ok.params.memSize ∧ ok.dst.toNat + n ≤ ok.params.memSize) ∧
      ¬ overlap ok.src.toNat 1 ok.dst.toNat n ∧
      ok.ram.readBytes ok.src.toNat ok.len.toNat = .ok [0xAB#8]) := by
  rcases hn with rfl | rfl <;> exact ⟨by decide, by decide, by decide, by decide, rfl⟩

/-- B = 20 i is LENGTH, and B = 20 i + 1 is a frame with one byte. -/
theorem witness_BuildDataStoresTheNumberedFrame :
    let s : State := { ramState 0x114 [0x77#8] with src := 0x100#32, len := 21#32, index := 1#16 }
    let short : State := { s with len := 20#32 }
    let past : State := { s with dst := 0xFFFF#32 }
    let shared : State := { s with dst := 0x114#32 }
    let ok : State := { s with dst := 0x115#32 }
    short.len.toNat ≤ 20 * short.index.toNat ∧
    (20 * past.index.toNat < past.len.toNat ∧ ¬ past.dst.toNat + 15 ≤ past.params.memSize) ∧
    (20 * shared.index.toNat < shared.len.toNat ∧ shared.dst.toNat + 15 ≤ shared.params.memSize ∧
      overlap shared.src.toNat shared.len.toNat shared.dst.toNat 15) ∧
    (20 * ok.index.toNat < ok.len.toNat ∧
      (ok.src.toNat + ok.len.toNat ≤ ok.params.memSize ∧ ok.dst.toNat + 15 ≤ ok.params.memSize) ∧
      ¬ overlap ok.src.toNat ok.len.toNat ok.dst.toNat 15 ∧
      min 20 (ok.len.toNat - 20 * ok.index.toNat) = 1 ∧
      ok.ram.readBytes (ok.src.toNat + 20 * ok.index.toNat) 1 = .ok [0x77#8]) :=
  ⟨by decide, by decide, by decide, by decide, by decide, by decide, by decide, rfl⟩

/-- COMPRESS and PACK on eight samples: both illegal lengths, past the end, sharing a byte, and legal; the coded stream
shorter than eight samples, and not. -/
theorem witness_CompressAndPack :
    let s : State := { ramState 0 (List.replicate 8 0x00#8 ++ [0x01#8, 0x00#8, 0x01#8, 0x00#8, 0x01#8, 0x00#8, 0x01#8, 0x00#8])
      with len := 8#32, dst := 0x100#32 }
    let raw : State := { s with src := 8#32 }
    ¬ (0 ≠ 0 ∧ 0 % 8 = 0) ∧ ¬ (7 ≠ 0 ∧ 7 % 8 = 0) ∧ (s.len.toNat ≠ 0 ∧ s.len.toNat % 8 = 0) ∧
    (¬ 0xFFF9 + s.len.toNat ≤ s.params.memSize ∧ ¬ 0x10000 + s.len.toNat / 8 ≤ s.params.memSize) ∧
    (overlap s.src.toNat s.len.toNat 7 s.len.toNat ∧ overlap s.src.toNat s.len.toNat 7 (s.len.toNat / 8)) ∧
    (s.src.toNat + s.len.toNat ≤ s.params.memSize ∧ s.dst.toNat + s.len.toNat ≤ s.params.memSize ∧
      ¬ overlap s.src.toNat s.len.toNat s.dst.toNat s.len.toNat ∧
      ¬ overlap s.src.toNat s.len.toNat s.dst.toNat (s.len.toNat / 8) ∧
      s.ram.readBytes s.src.toNat s.len.toNat = .ok (List.replicate 8 0x00#8)) ∧
    (rle s.params (List.replicate 8 0x00#8)).length = 8 ∧
    raw.ram.readBytes raw.src.toNat raw.len.toNat =
      .ok [0x01#8, 0x00#8, 0x01#8, 0x00#8, 0x01#8, 0x00#8, 0x01#8, 0x00#8] :=
  ⟨by decide, by decide, by decide, by decide, by decide, ⟨by decide, by decide, by decide, by decide, rfl⟩, by decide, rfl⟩

/-- V-CMP: seven samples 01 and one 00, a non-empty list, code in seven samples, fewer than eight. -/
theorem witness_CompressStoresTheShorterStream :
    (List.replicate 7 0x01#8 ++ [0x00#8] : List Byte) ≠ [] ∧
    (rle Params.specDefault (List.replicate 7 0x01#8 ++ [0x00#8])).length < 8 ∧
    (ramState 0 (List.replicate 7 0x01#8 ++ [0x00#8])).ram.readBytes 0 8 = .ok (List.replicate 7 0x01#8 ++ [0x00#8]) :=
  ⟨by decide, by decide, rfl⟩

/-- TX and QUEUE: the two illegal lengths, past the end, a busy engine, a full queue; accepted with a duration of 114, and
of 0. -/
theorem witness_TxAndQueue :
    let s : State := frameState 1#16
    let zero : State := frameState 0#16
    let act : State := { s with eng := sending .direct 0 }
    let full : State := { act with queue := List.replicate 4 ⟨[0x1B#8], 1#16⟩ }
    ¬ (0 ≠ 0 ∧ 0 ≤ s.params.maxFrame) ∧ ¬ (65 ≠ 0 ∧ 65 ≤ s.params.maxFrame) ∧
    (s.len.toNat ≠ 0 ∧ s.len.toNat ≤ s.params.maxFrame) ∧ ¬ 0x10000 + s.len.toNat ≤ s.params.memSize ∧
    s.src.toNat + s.len.toNat ≤ s.params.memSize ∧ act.eng ≠ .idle ∧ full.queue.length = full.params.qDepth ∧
    act.queue.length ≠ act.params.qDepth ∧ s.eng = .idle ∧ s.queue = [] ∧
    0 < duration s.params [0x1B#8] s.repeatCount ∧ duration zero.params [0x1B#8] zero.repeatCount = 0 ∧
    s.ram.readBytes s.src.toNat s.len.toNat = .ok [0x1B#8] :=
  ⟨by decide, by decide, by decide, by decide, by decide, by decide, by decide, by decide, by decide, by decide,
    by decide, by decide, rfl⟩

theorem witness_RejectionChangesOnlyErrcode :
    (∃ t, cmdIssue 0x100#32 State.reset = .next t ∧ t.errcode ≠ 0#4) ∧
    (∃ t, cmdIssue 0x30#32 State.reset = .next t ∧ t.errcode ≠ 0#4) :=
  ⟨⟨_, rfl, by decide⟩, ⟨_, rfl, by decide⟩⟩

/-- Every command answers a next state on this state; so it also meets the hypothesis of
`CommandsKeepTheOperandRegisters`. -/
theorem witness_EachCommandRaisesItsOwnCodes :
    ∀ i ∈ [Instr.nop, .crc, .crcCheck, .buildPing, .buildMcu, .buildRaw, .buildData, .compress, .pack, .tx, .queue],
      (nextOf (exec i (frameState 1#16))).isSome = true ∧
      (nextOf (cmdIssue (encode i) (frameState 1#16))).isSome = true := by decide +kernel

/-- A command other than CRC_CHECK, and a rejected CRC_CHECK. -/
theorem witness_OnlyAcceptedCrcCheckWritesMatch :
    (∃ t, cmdIssue 0x00#32 State.reset = .next t ∧ 0x00#32 ≠ encode .crcCheck) ∧
    (∃ t, cmdIssue 0x02#32 State.reset = .next t ∧ t.errcode ≠ 0#4) :=
  ⟨⟨_, rfl, by decide⟩, ⟨_, rfl, by decide⟩⟩

/-- NOP, a rejected command, and an accepted CRC and TX. -/
theorem witness_ResultRegistersConvention :
    (∃ t, cmdIssue 0x00#32 State.reset = .next t ∧ 0x00#32 = encode .nop) ∧
    (∃ t, cmdIssue 0x20#32 State.reset = .next t ∧ t.errcode ≠ 0#4) ∧
    (∃ t, cmdIssue 0x01#32 State.reset = .next t ∧ t.errcode = 0#4 ∧ 0x01#32 = encode .crc) ∧
    (∃ t, cmdIssue 0x30#32 (frameState 1#16) = .next t ∧ t.errcode = 0#4 ∧ 0x30#32 = encode .tx) :=
  ⟨⟨_, rfl, by decide⟩, ⟨_, rfl, by decide⟩, ⟨_, rfl, by decide, by decide⟩, ⟨_, rfl, by decide, by decide⟩⟩

/-- A host write to RAM while the engine is Active (V-TX: it does not disturb the transmission), an idle slot, and no slot;
the hypotheses of `OnlyCommandsWriteStatusAndResults` are the same. -/
theorem witness_HostWritesNeverDisturbATransmission :
    let write : HostSlot := .write 0x10200#17 .byte 0x99#32
    let s : State := { frameState 1#16 with eng := sending .direct 5, host := [write], errcode := 5#4 }
    let idle : State := { s with host := [.idle, write] }
    (∃ t, step s = .next t) ∧ s.rstIn.head? ≠ some true ∧ s.host = write :: [] ∧
      (∀ size v, s.host.head? ≠ some (.write 0x08#17 size v)) ∧
      (idle.rstIn.head? ≠ some true ∧ idle.host = .idle :: [write]) ∧
      (State.reset.rstIn.head? ≠ some true ∧ State.reset.host = []) :=
  ⟨⟨_, rfl⟩, by decide, rfl, fun _ _ h => (by cases h), ⟨by decide, rfl⟩, ⟨by decide, rfl⟩⟩

/-- NOP, CRC and an accepted CRC_CHECK. -/
theorem witness_CheckingCommandsFrame :
    ∀ i ∈ [Instr.nop, .crc, .crcCheck],
      errOf (exec i { ramState 0 [0x08#8, 0x84#8] with len := 2#32 }) = some 0#4 := by decide +kernel

/-- The storing commands, accepted: eight samples at 0, the output at 0x100. -/
theorem witness_StoringCommandsFrame :
    (∀ i ∈ [Instr.buildPing, .buildMcu, .buildRaw, .buildData, .compress, .pack],
      errOf (exec i { ramState 0 (List.replicate 8 0x01#8) with len := 8#32, dst := 0x100#32 }) = some 0#4) ∧
    (ramState 0 (List.replicate 8 0x01#8)).ram.readBytes 0 8 = .ok (List.replicate 8 0x01#8) :=
  ⟨by decide +kernel, rfl⟩

theorem witness_TransmitCommandsFrame :
    (∃ t, exec .tx (frameState 1#16) = .next t) ∧ ∃ t, exec .queue (frameState 1#16) = .next t :=
  ⟨⟨_, rfl⟩, ⟨_, rfl⟩⟩

theorem witness_ChecksumOfTerminatedListIsZero : Params.specDefault.crcXorOut = 0#16 := by decide

/-- The four BUILD commands, accepted. -/
theorem witness_BuiltFramesPassTheCheck :
    Params.specDefault.wf = true ∧
    ∀ i ∈ [Instr.buildPing, .buildMcu, .buildRaw, .buildData],
      errOf (exec i { ramState 0 [0x77#8] with len := 1#32, dst := 0x100#32, frm := 0x10000#17 }) = some 0#4 := by
  decide +kernel

/-- Both flags set, and two equal lists; the four settings of the clauses about lists without repeats. -/
theorem witness_CodeStatements :
    let full : Params := { Params.specDefault with rleCodeUnitRuns := true }
    let first : Params := { full with rleLiteralEveryRun := false }
    let neither : Params := { Params.specDefault with rleLiteralEveryRun := false }
    (full.rleLiteralEveryRun = true ∧ full.rleCodeUnitRuns = true ∧
      rle full [0x01#8, 0x00#8] = rle full [0x01#8, 0x00#8]) ∧
    (Params.specDefault.rleLiteralEveryRun = true ∧ Params.specDefault.rleCodeUnitRuns = false) ∧
    (first.rleLiteralEveryRun = false ∧ first.rleCodeUnitRuns = true) ∧
    (neither.rleLiteralEveryRun = false ∧ neither.rleCodeUnitRuns = false) ∧
    ([0x01#8, 0x00#8] ≠ [] ∧ [0x01#8, 0x00#8].IsChain (· ≠ ·)) := by decide

/-- An accepted COMPRESS. -/
theorem witness_CompressUsesAtMostTheRawSize :
    let s : State := { ramState 0 (List.replicate 7 0x01#8 ++ [0x00#8]) with len := 8#32, dst := 8#32 }
    s.params.wf = true ∧ ∃ t, exec .compress s = .next t ∧ t.errcode = 0#4 := ⟨by decide, _, rfl, by decide⟩

/-- The last sample of the last byte. -/
theorem witness_PackedBitsAreTheSamples :
    let l : List Byte := List.replicate 16 0x01#8
    l.length % 8 = 0 ∧ 1 < l.length / 8 ∧ (7 : Nat) < 8 := by decide

/-- The last symbol of the last byte. -/
theorem witness_SymbolsAreCutMostSignificantFirst :
    ([0x1B#8, 0x85#8] : List Byte)[1]? = some 0x85#8 ∧ (3 : Nat) < 4 := by decide

theorem witness_WaveLastsExactlyItsDuration :
    Params.specDefault.wf = true ∧ (1#16 : Half) ≠ 0#16 ∧ ([0x1B#8] : List Byte) ≠ [] ∧ (1 : Nat) < 2 := by decide

/-- An idle engine over an empty queue; an active one with a next entry waiting; the last clock of both origins. -/
theorem witness_EngineStatements :
    let e : QEntry := ⟨[0x1B#8], 2#16⟩
    let d : State := { State.reset with eng := sending .direct 113, queue := [e] }
    let q : State := { State.reset with eng := sending .queued 113, queue := [⟨[0x1B#8], 1#16⟩, e] }
    State.reset.eng = .idle ∧ State.reset.queue = [] ∧ d.eng = .active .direct [0x1B#8] 1#16 113 ∧
    (duration d.params [0x1B#8] 1#16 ≤ 113 + 1 ∧ d.queue = e :: []) ∧
    (q.eng = .active .queued [0x1B#8] 1#16 113 ∧ q.queue = ⟨[0x1B#8], 1#16⟩ :: e :: []) ∧
    0 < duration q.params e.frame e.repeats ∧ q.queue.tail = e :: [] := by decide

theorem witness_TransmissionIsBusyForItsDuration :
    let s : State := frameState 1#16
    s.queue = [] ∧ s.ram.readBytes (opSrc s) (opLen s) = .ok [0x1B#8] ∧ 0 < duration s.params [0x1B#8] s.repeatCount ∧
    ∃ u, exec .tx s = .next u ∧ u.errcode = 0#4 := ⟨rfl, rfl, by decide, _, rfl, rfl⟩

/-- A state that meets the invariants with a queued transmission at its last clock, whose step goes on; so it also meets
the hypotheses of `StepKeepsTheInvariants`. -/
theorem witness_EngineDrainsTheQueueInExactTime :
    let s : State := { State.reset with eng := sending .queued 113, queue := [⟨[0x1B#8], 1#16⟩, ⟨[0x1B#8], 0#16⟩] }
    s.Inv ∧ s.eng = .active .queued [0x1B#8] 1#16 113 ∧ ∃ t, step s = .next t := by
  refine ⟨⟨rfl, rfl, ?_, ?_, ?_, ?_, ?_, ?_, ?_⟩, rfl, _, rfl⟩
  · intro h; cases h
  · intro f r t h; cases h; exact ⟨_, rfl⟩
  · intro o f r t h; cases h; decide
  · decide
  · intro o f r t h; cases h; exact ⟨by decide, by decide⟩
  · intro e he
    simp only [List.mem_cons, List.not_mem_nil, or_false] at he
    rcases he with rfl | rfl <;> exact ⟨by decide, by decide⟩
  · decide

/-- Forbidden accesses on both sides of every border of R51 and R57; MEM_SIZE is 64 for the last border. -/
theorem witness_ForbiddenAccessesAreBusErrors :
    let small : Params := { Params.specDefault with memSize := 64 }
    small.wf = true ∧
    busTarget small 0x28#17 .word = .ok (.reg .index) ∧ busTarget small 0x2C#17 .word = .error .unmapped ∧
    busTarget small 0x2F#17 .byte = .error .unmapped ∧ busTarget small 0x30#17 .word = .ok (.reg .res0) ∧
    busTarget small 0x38#17 .word = .ok (.reg .res2) ∧ busTarget small 0x3B#17 .byte = .error .registerAccess ∧
    busTarget small 0x3C#17 .word = .error .unmapped ∧ busTarget small 0x40#17 .word = .error .unmapped ∧
    busTarget small 0x0FFFF#17 .byte = .error .unmapped ∧ busTarget small 0x10000#17 .byte = .ok (.ram 0) ∧
    busTarget small 0x02#17 .word = .error .registerAccess ∧ busTarget small 0x04#17 .half = .error .registerAccess ∧
    busTarget small 0x10001#17 .half = .error .misaligned ∧ busTarget small 0x10002#17 .word = .error .misaligned ∧
    busTarget small 0x1003C#17 .word = .ok (.ram 60) ∧ busTarget small 0x10040#17 .byte = .error .unmapped ∧
    busTarget small 0x1FFFF#17 .byte = .error .unmapped := by decide +kernel

/-- The first byte and the last word of RAM. -/
theorem witness_RamAccessesAreLittleEndian :
    (0x10000 ≤ (0x10000#17).toNat ∧ (0x10000#17).toNat % AccessSize.byte.bytes = 0 ∧
      (0x10000#17).toNat - 0x10000 + AccessSize.byte.bytes ≤ State.reset.params.memSize) ∧
    (0x10000 ≤ (0x1FFFC#17).toNat ∧ (0x1FFFC#17).toNat % AccessSize.word.bytes = 0 ∧
      (0x1FFFC#17).toNat - 0x10000 + AccessSize.word.bytes ≤ State.reset.params.memSize) := by decide

/-- A written byte, and the byte after it, which nothing has written. -/
theorem witness_ReadsHaveNoSideEffects :
    let s : State := { frameState 1#16 with eng := sending .direct 5, host := [.read 0x10200#17 .byte] }
    s.rstIn.head? ≠ some true ∧ s.host = .read 0x10200#17 .byte :: [] ∧ (∃ t, step s = .next t) ∧
    memRead (tick s) 0x10200#17 .byte = .ok 0x1B#32 ∧
    memRead (tick s) 0x10201#17 .byte = .error (.unwrittenRam 0x201) :=
  ⟨by decide, rfl, ⟨_, rfl⟩, rfl, rfl⟩

/-- Host reads of each size at the end of RAM, the byte of the highest address unwritten. -/
theorem witness_UnwrittenBytesFault_hostReads :
    let s : State := ramState 0xFFFC [0x12#8, 0x34#8, 0x56#8]
    s.ram.read 0xFFFF = none ∧
    ∀ x ∈ [(0x1FFFF#17, AccessSize.byte), (0x1FFFE#17, AccessSize.half), (0x1FFFC#17, AccessSize.word)],
      0x10000 ≤ x.1.toNat ∧ x.1.toNat % x.2.bytes = 0 ∧ x.1.toNat - 0x10000 + x.2.bytes ≤ s.params.memSize ∧
      x.1.toNat - 0x10000 ≤ 0xFFFF ∧ 0xFFFF < x.1.toNat - 0x10000 + x.2.bytes := by decide

/-- Every command that reads RAM, its checks passed and the last byte of its region unwritten: eight bytes for all but
BUILD_DATA, whose chunk is the one byte at 0x114. -/
theorem witness_UnwrittenBytesFault :
    let s : State := { ramState 0 (List.replicate 7 0x12#8) with len := 8#32, dst := 0x40#32 }
    let d : State := { State.reset with src := 0x100#32, len := 21#32, index := 1#16, dst := 0x200#32 }
    (s.ram.read 7 = none ∧ s.src.toNat ≤ 7 ∧ 7 < s.src.toNat + s.len.toNat) ∧
    (s.src.toNat + s.len.toNat ≤ s.params.memSize ∧ 0 + 2 ≤ s.len.toNat ∧ s.len.toNat % 8 = 0 ∧
      s.len.toNat ≤ s.params.maxFrame ∧ s.eng = .idle ∧ s.queue.length ≠ s.params.qDepth) ∧
    (∀ n ∈ [10 + s.len.toNat + 2, 6 + s.len.toNat + 2, s.len.toNat, s.len.toNat / 8],
      s.dst.toNat + n ≤ s.params.memSize ∧ ¬ overlap s.src.toNat s.len.toNat s.dst.toNat n) ∧
    (d.ram.read 0x114 = none ∧ 20 * d.index.toNat < d.len.toNat ∧ d.src.toNat + d.len.toNat ≤ d.params.memSize ∧
      d.dst.toNat + (12 + 1 + 2) ≤ d.params.memSize ∧ ¬ overlap d.src.toNat d.len.toNat d.dst.toNat (12 + 1 + 2) ∧
      min 20 (d.len.toNat - 20 * d.index.toNat) = 1 ∧ d.src.toNat + 20 * d.index.toNat = 0x114) := by decide

/-- The converse: a command that faults. -/
theorem witness_UnwrittenBytesFault_converse :
    exec .pack { ramState 0 (List.replicate 7 0x12#8) with len := 8#32, dst := 0x40#32 } = .fault (.unwrittenRam 7) := rfl

/-- W2: sixteen and eighteen characters. -/
theorem witness_IdentifierOfABarcode :
    (List.replicate 16 'A').length ≠ 17 ∧ (List.replicate 18 'A').length ≠ 17 := by decide

end Sys2Proof.Tests
end

section
/-! 10_state.md R22: STATUS read by the host, field by field. A register of the window is reached at its own offset; the
flags say what R23, R24 and R26 say; the word holds each field in its place. -/

namespace Sys2Proof.Machine

/-! ## A register at its own offset -/

@[simp] theorem memRead_offset (s : State) (r : Reg) : memRead s r.offset .word = .ok (readReg s r) := by
  simp [memRead]

@[simp] theorem memWrite_offset (r : Reg) (v : Word) (s : State) :
    memWrite r.offset .word v s = writeReg r v s := by
  simp [memWrite]

/-! ## The flags -/

theorem busy_iff (s : State) : busy s = true ↔ ∃ o f r t, s.eng = .active o f r t := by
  unfold busy
  cases s.eng with
  | idle => simp
  | active o f r t => simp

theorem errFlag_iff (s : State) : errFlag s = true ↔ s.errcode ≠ 0#4 := by simp [errFlag]

theorem qfull_iff (s : State) : qfull s = true ↔ s.queue.length = s.params.qDepth := by simp [qfull]

/-! ## The fields of STATUS -/

/-- The layout of R22, bit by bit. The proof writes the word's width as the sum of its fields' widths, so that the rule
for a bit of `++` applies field by field; above the four single bits only the ranges of ERRCODE, QCOUNT and QFULL are
left to compare. -/
theorem statusWord_getLsbD (s : State) (i : Nat) :
    (statusWord s).getLsbD i =
      if i = 0 then busy s else if i = 1 then errFlag s else if i = 2 then s.matchBit else if i = 3 then false
      else if i < 8 then s.errcode.getLsbD (i - 4) else if i < 16 then (qcount s).getLsbD (i - 8)
      else if i = 16 then qfull s else false := by
  unfold statusWord
  change BitVec.getLsbD (w := 15 + 1 + 8 + 4 + 1 + 1 + 1 + 1) _ i = _
  simp only [BitVec.getLsbD_append, BitVec.getLsbD_ofBool, BitVec.getLsbD_zero]
  match i with
  | 0 | 1 | 2 | 3 => simp
  | j + 4 => grind

theorem statusWord_errcode (s : State) : (statusWord s).extractLsb' 4 4 = s.errcode := by
  ext i hi
  rw [BitVec.getElem_extractLsb', statusWord_getLsbD]
  grind

theorem statusWord_qcount (s : State) : (statusWord s).extractLsb' 8 8 = qcount s := by
  ext i hi
  rw [BitVec.getElem_extractLsb', statusWord_getLsbD]
  grind

theorem statusWord_high (s : State) : (statusWord s).extractLsb' 17 15 = 0#15 := by
  ext i hi
  rw [BitVec.getElem_extractLsb', statusWord_getLsbD]
  grind

end Sys2Proof.Machine

namespace Sys2Proof.Proofs

open Sys2Proof.Machine

/-- Settles O53: 0x04 is STATUS's own offset, where a write is ignored and a read answers `statusWord`, whose fields are
the flags of R22 to R26 (QCOUNT keeps the low 8 bits of the queue's length, log 13). -/
theorem statusReadsItsFields : Obligations.StatusReadsItsFields := by
  unfold Obligations.StatusReadsItsFields
  intro s
  refine ⟨fun v => memWrite_offset .status v s, statusWord s, memRead_offset s .status, ?_⟩
  simp only [statusWord_getLsbD]
  exact ⟨busy_iff s, errFlag_iff s, rfl, rfl, statusWord_errcode s, statusWord_qcount s, qfull_iff s,
    statusWord_high s⟩

end Sys2Proof.Proofs
end

section
/-! 60_exceptions.md R221, 20_memory.md R67: why a command faults. Its checks reject, they never fault (R224), so the one
fault left is a byte that nothing has written, in the region the command reads. -/

namespace Sys2Proof.Machine

/-- The region `(a, n)` of buffer RAM that a command reads once its checks have passed: [SRC, SRC+LEN), the chunk alone for
BUILD_DATA (43_frame_builder.md R126), nothing for NOP and BUILD_PING. -/
def readRegion (s : State) : Instr → Nat × Nat
  | .nop => (0, 0)
  | .buildPing => (0, 0)
  | .buildData => (opSrc s + dataChunk * opIndex s, chunkCount (opLen s) (opIndex s))
  | _ => (opSrc s, opLen s)

/-- A check that rejects does not fault; a fault comes from what runs after it. -/
theorem fault_of_check {P : Prop} [Decidable P] {c : RejectCode} {s : State} {r : Result} {e : Fault}
    (h : (if P then reject c s else r) = .fault e) : r = .fault e := by
  split at h
  · cases h
  · exact h

/-- COMPRESS goes on once it has its samples, whichever stream it stores. -/
theorem execCompress_fault {s : State} {e : Fault} (h : execCompress s = .fault e) :
    ∃ x, e = .unwrittenRam x ∧ s.ram.read x = none ∧ opSrc s ≤ x ∧ x < opSrc s + opLen s := by
  refine withBytes_fault (fault_of_check (fault_of_check (fault_of_check h))) fun l e' => ?_
  dsimp only
  split <;> nofun

/-- A command faults only for an unwritten byte of the region it reads. -/
theorem exec_fault {i : Instr} {s : State} {e : Fault} (h : exec i s = .fault e) :
    ∃ x, e = .unwrittenRam x ∧ s.ram.read x = none ∧
      (readRegion s i).1 ≤ x ∧ x < (readRegion s i).1 + (readRegion s i).2 := by
  cases i with
  | nop => cases h
  | buildPing => cases fault_of_check h
  | crc => exact withBytes_fault (fault_of_check h) nofun
  | crcCheck => exact withBytes_fault (fault_of_check (fault_of_check h)) nofun
  | buildMcu => exact withBytes_fault (fault_of_check (fault_of_check h)) nofun
  | buildRaw => exact withBytes_fault (fault_of_check (fault_of_check h)) nofun
  | buildData => exact withBytes_fault (fault_of_check (fault_of_check (fault_of_check h))) nofun
  | compress => exact execCompress_fault h
  | pack => exact withBytes_fault (fault_of_check (fault_of_check (fault_of_check h))) nofun
  | tx => exact withBytes_fault (fault_of_check (fault_of_check (fault_of_check h))) nofun
  | queue => exact withBytes_fault (fault_of_check (fault_of_check (fault_of_check h))) nofun

/-- A register write faults only as the command that a CMD write issues. -/
theorem writeReg_fault {r : Reg} {v : Word} {s : State} {e : Fault} (h : writeReg r v s = .fault e) :
    ∃ i, r = .cmd ∧ decode v = .ok i ∧ exec i s = .fault e := by
  cases r with
  | cmd =>
    change cmdIssue v s = .fault e at h
    unfold cmdIssue at h
    split at h
    · exact ⟨_, rfl, ‹_›, h⟩
    · cases h
  | _ => cases h

end Sys2Proof.Machine
end

section
/-! 20_memory.md R57: the forbidden accesses. The address map answers an error for exactly these when MEM_SIZE is legal; a
host transaction is a bus error exactly where the map answers an error. -/

namespace Sys2Proof.Machine

/-! ## Where a transaction is a bus error -/

/-- A read is a bus error exactly where the map answers one, with the map's cause: the only other fault of a read is an
unwritten byte. -/
theorem memRead_busError_iff (s : State) (addr : BusAddr) (size : AccessSize) (c : BusErrorCause) :
    memRead s addr size = .error (.busError c addr) ↔ busTarget s.params addr size = .error c := by
  unfold memRead
  split
  · simp [*]
  · simp [*]
  · split <;> simp [*]

/-- A write is a bus error exactly where the map answers one, with the map's cause: the only other fault of a write is that
of the command it issues. -/
theorem memWrite_busError_iff (s : State) (addr : BusAddr) (size : AccessSize) (v : Word) (c : BusErrorCause) :
    memWrite addr size v s = .fault (.busError c addr) ↔ busTarget s.params addr size = .error c := by
  unfold memWrite
  split
  · simp [*]
  · rename_i r hr
    rw [hr]
    refine ⟨fun h => ?_, nofun⟩
    obtain ⟨i, -, -, hi⟩ := writeReg_fault h
    obtain ⟨x, hx, -⟩ := exec_fault hi
    cases hx
  · simp [*]

/-! ## The refusals of the address map -/

/-- R57 item 1: the unmapped addresses of R51 and 10_state.md R21. -/
def Unmapped (p : Params) (a : Nat) : Prop :=
  (0x2C ≤ a ∧ a < 0x30) ∨ (0x3C ≤ a ∧ a < 0x10000) ∨ 0x10000 + p.memSize ≤ a

/-- R57 item 2: a register access that is not an aligned 32-bit one (R58). -/
def BadRegisterAccess (a n : Nat) : Prop := a < 0x40 ∧ (n ≠ 4 ∨ a % 4 ≠ 0)

/-- R57 item 3: a RAM access that is not naturally aligned (R59). -/
def MisalignedRam (a n : Nat) : Prop := 0x10000 ≤ a ∧ a % n ≠ 0

/-- The word of the window that holds an address has no register at 0x2C and 0x3C alone (10_state.md R21). -/
theorem regAt_eq_none_iff {addr : BusAddr} (h : addr.toNat < 0x40) :
    regAt (addr &&& 0x1FFFC#17) = none ↔ (0x2C ≤ addr.toNat ∧ addr.toNat < 0x30) ∨ 0x3C ≤ addr.toNat := by
  have hwindow : ∀ a < 0x40, regAt (BitVec.ofNat 17 a &&& 0x1FFFC#17) = none ↔ (0x2C ≤ a ∧ a < 0x30) ∨ 0x3C ≤ a := by
    decide
  simpa using hwindow addr.toNat h

theorem AccessSize.bytes_eq_four_iff (size : AccessSize) : size.bytes = 4 ↔ size = .word := by
  cases size <;> decide

theorem memSizeOk_of_wf {p : Params} (h : p.wf = true) : p.memSizeOk = true := by
  simp only [Params.wf, Bool.and_eq_true] at h
  tauto

/-- A legal MEM_SIZE is a whole number of 32-bit words. -/
theorem memSize_mod_four {p : Params} (h : p.memSizeOk = true) : p.memSize % 4 = 0 := by
  simp only [Params.memSizeOk, List.any_eq_true, beq_iff_eq] at h
  obtain ⟨k, -, hk⟩ := h
  rw [hk, pow_add]
  omega

/-- R57 item 4 cannot happen: an aligned access that begins inside RAM ends inside it, RAM being whole words. -/
theorem aligned_access_fits {m a : Nat} (size : AccessSize) (hm : m % 4 = 0) (h0 : ramBase ≤ a) (h1 : a < ramBase + m)
    (ha : a % size.bytes = 0) : a - ramBase + size.bytes ≤ m := by
  unfold ramBase at *
  cases size <;> simp only [AccessSize.bytes] at * <;> omega

/-- Inside the window the map refuses the two offsets without a register and every access but an aligned 32-bit one. -/
theorem busTarget_window_error_iff {p : Params} {addr : BusAddr} {size : AccessSize} (h : addr.toNat < 0x40) :
    (∃ c, busTarget p addr size = .error c) ↔
      regAt (addr &&& 0x1FFFC#17) = none ∨ size.bytes ≠ 4 ∨ addr.toNat % 4 ≠ 0 := by
  unfold busTarget
  rw [if_pos h, ne_eq, ne_eq, AccessSize.bytes_eq_four_iff, ← Decidable.not_and_iff_not_or_not]
  split
  · simp [*]
  · split <;> simp [*]

/-- Above the window the map refuses the addresses outside RAM and the misaligned accesses inside it. -/
theorem busTarget_ram_error_iff {p : Params} {addr : BusAddr} {size : AccessSize} (hp : p.memSizeOk = true)
    (h : ¬ addr.toNat < 0x40) :
    (∃ c, busTarget p addr size = .error c) ↔
      (addr.toNat < ramBase ∨ ramBase + p.memSize ≤ addr.toNat) ∨ addr.toNat % size.bytes ≠ 0 := by
  unfold busTarget
  rw [if_neg h]
  split
  · simp [*]
  · split
    · simp [*]
    · rename_i hin hal
      rw [ne_eq, Decidable.not_not] at hal
      have := aligned_access_fits size (memSize_mod_four hp) (by omega) (by omega) hal
      rw [if_neg (by omega)]
      simp [*]

/-- With a legal MEM_SIZE the map refuses exactly what items 1 to 3 of R57 forbid. -/
theorem busTarget_error_iff {p : Params} (hp : p.memSizeOk = true) (addr : BusAddr) (size : AccessSize) :
    (∃ c, busTarget p addr size = .error c) ↔
      Unmapped p addr.toNat ∨ BadRegisterAccess addr.toNat size.bytes ∨ MisalignedRam addr.toNat size.bytes := by
  unfold Unmapped BadRegisterAccess MisalignedRam
  by_cases h : addr.toNat < 0x40
  · rw [busTarget_window_error_iff h, regAt_eq_none_iff h]
    omega
  · rw [busTarget_ram_error_iff hp h, ramBase]
    omega

end Sys2Proof.Machine

namespace Sys2Proof.Proofs

open Sys2Proof.Machine

/-- Settles O54: a read or a write is a bus error where the address map answers an error (`memRead_busError_iff`,
`memWrite_busError_iff`), and by `busTarget_error_iff` that is what items 1 to 3 of R57 forbid; the cause stays open
(log 15). -/
theorem forbiddenAccessesAreBusErrors : Obligations.ForbiddenAccessesAreBusErrors := by
  unfold Obligations.ForbiddenAccessesAreBusErrors
  intro s addr size hwf
  have hmap := (busTarget_error_iff (memSizeOk_of_wf hwf) addr size).symm
  exact ⟨hmap.trans (exists_congr fun c => (memRead_busError_iff s addr size c).symm),
    fun v => hmap.trans (exists_congr fun c => (memWrite_busError_iff s addr size v c).symm)⟩

end Sys2Proof.Proofs
end

section
/-! 30_encoding.md R72, R73: what the opcode map and the decoder answer. Each OPCODE of R72 belongs to one command; a word
decodes to the command of its OPCODE, or is illegal by its RSVD field or by its OPCODE. -/

namespace Sys2Proof.Machine

/-! ## The opcode map -/

/-- The map finds a command exactly at that command's OPCODE: each row of `opcodeMap` agrees with `opcode`. -/
theorem instrOfOpcode_eq_some_iff {op : Byte} {i : Instr} : instrOfOpcode op = some i ↔ opcode i = op := by
  have hrows : ∀ row ∈ opcodeMap, opcode row.2 = row.1 := by decide
  constructor
  · intro h
    obtain ⟨row, hfind, rfl⟩ := Option.map_eq_some_iff.mp h
    have hkey := List.find?_some hfind
    exact (hrows row (List.mem_of_find?_eq_some hfind)).trans (eq_of_beq hkey)
  · rintro rfl
    cases i <;> rfl

/-- The map finds nothing exactly at the reserved OPCODEs: its keys are the listed ones. -/
theorem instrOfOpcode_eq_none_iff {op : Byte} : instrOfOpcode op = none ↔ op ∉ listedOpcodes := by
  have hkeys : listedOpcodes = opcodeMap.map Prod.fst := rfl
  rw [instrOfOpcode, Option.map_eq_none_iff, List.find?_eq_none, hkeys, List.mem_map]
  simp only [beq_iff_eq, not_exists, not_and]

/-! ## The decoder -/

/-- The legal words: a zero RSVD field over the command's OPCODE. -/
theorem decode_eq_ok_iff {w : Word} {i : Instr} :
    decode w = .ok i ↔ commandRsvd w = 0#24 ∧ opcode i = commandOpcode w := by
  rw [← instrOfOpcode_eq_some_iff]
  unfold decode
  split
  · simp [*]
  · split <;> simp_all

/-- The illegal words: a nonzero RSVD field or a reserved OPCODE. -/
theorem decode_eq_error_iff {w : Word} :
    (∃ e, decode w = .error e) ↔ commandRsvd w ≠ 0#24 ∨ commandOpcode w ∉ listedOpcodes := by
  rw [← instrOfOpcode_eq_none_iff]
  unfold decode
  split
  · simp [*]
  · split <;> simp_all

/-! ## Issuing a word -/

theorem cmdIssue_of_decode_ok {w : Word} {i : Instr} (h : decode w = .ok i) (s : State) :
    cmdIssue w s = exec i s := by
  simp [cmdIssue, h]

theorem cmdIssue_of_decode_error {w : Word} {e : DecodeError} (h : decode w = .error e) (s : State) :
    cmdIssue w s = reject .opcode s := by
  simp [cmdIssue, h]

end Sys2Proof.Machine

namespace Sys2Proof.Proofs

open Sys2Proof.Machine

/-- Settles O3: the decoder refuses exactly the illegal words (`decode_eq_error_iff`), and issuing one is `reject`, which
writes ERRCODE alone; a listed OPCODE has its row in the map, and under a zero RSVD field the decoder answers that row's
command. -/
theorem reservedCommandWordsAreRejected : Obligations.ReservedCommandWordsAreRejected := by
  unfold Obligations.ReservedCommandWordsAreRejected
  intro w s
  constructor
  · intro hillegal
    obtain ⟨e, he⟩ := decode_eq_error_iff.mpr hillegal
    exact cmdIssue_of_decode_error he s
  · rintro ⟨hrsvd, hlisted⟩
    obtain ⟨i, hi⟩ := Option.ne_none_iff_exists'.mp fun h => instrOfOpcode_eq_none_iff.mp h hlisted
    have hop := instrOfOpcode_eq_some_iff.mp hi
    exact ⟨i, hop, cmdIssue_of_decode_ok (decode_eq_ok_iff.mpr ⟨hrsvd, hop⟩) s⟩

end Sys2Proof.Proofs
end

section
/-! 40_command_common.md R97: NOP. Its word is the zero word, and its meaning has no check and reads no state: it writes
ERRCODE alone, whatever the TX engine does. -/

namespace Sys2Proof.Machine

/-- NOP's OPCODE is 0x00, under the zero RSVD field of every command word (R70, R72). -/
theorem encode_nop : encode .nop = 0#32 := by decide

/-- NOP always answers a next state; `execNop_cases` says only which one that would be. -/
theorem exec_nop (s : State) : exec .nop s = .next (setErr 0#4 s) := rfl

end Sys2Proof.Machine

namespace Sys2Proof.Proofs

open Sys2Proof.Machine

/-- Settles O10: `setErr` rebuilds the state with ERRCODE alone replaced, so RES0 to RES2, the TX engine and everything
else stand; no branch of NOP rejects. -/
theorem nopClearsOnlyErrcode : Obligations.NopClearsOnlyErrcode := by
  unfold Obligations.NopClearsOnlyErrcode
  exact ⟨encode_nop, exec_nop⟩

end Sys2Proof.Proofs
end

section
/-! 41_checksum.md R100, R102: the CRC function byte by byte, and the two answers of CRC on a region that can be read. -/

namespace Sys2Proof.Machine

/-! ## The CRC function -/

theorem crc16_nil (p : Params) : crc16 p [] = crcInit ^^^ p.crcXorOut := rfl

/-- The final XOR undone gives back the register, so the CRC of a longer list goes on from the CRC of the shorter one. -/
theorem crc16_append_singleton (p : Params) (l : List Byte) (b : Byte) :
    crc16 p (l ++ [b]) = crcByte (crc16 p l ^^^ p.crcXorOut) b ^^^ p.crcXorOut := by
  have hreg : crc16 p l ^^^ p.crcXorOut = l.foldl crcByte crcInit := by
    rw [crc16, BitVec.xor_assoc, BitVec.xor_self, BitVec.xor_zero]
  rw [hreg, crc16, List.foldl_concat]

theorem crcByte_eq_iterate (r : Half) (b : Byte) : crcByte r b = crcBit^[8] (r ^^^ b.setWidth 16) := rfl

/-! ## CRC -/

theorem exec_crc_of_not_inRange {s : State} (h : ¬ inRange s.params (opSrc s) (opLen s)) :
    exec .crc s = reject .range s :=
  if_pos h

theorem exec_crc_of_readBytes {s : State} {l : List Byte} (h : inRange s.params (opSrc s) (opLen s))
    (hl : s.ram.readBytes (opSrc s) (opLen s) = .ok l) :
    exec .crc s = .next (accept ((crc16 s.params l).setWidth 32) 0#32 0#32 s) :=
  (if_neg (not_not.mpr h)).trans (withBytes_of_ok _ hl)

/-- R102's corner case: the empty region has no byte to read, and its CRC is CRC_INIT. -/
theorem exec_crc_of_len_zero {s : State} (hlen : s.len = 0#32) (hsrc : opSrc s ≤ s.params.memSize)
    (hxor : s.params.crcXorOut = 0#16) :
    exec .crc s = .next (accept 0x00008408#32 0#32 0#32 s) := by
  have hlen' : opLen s = 0 := by rw [opLen, hlen]; rfl
  have hcrc : (crc16 s.params []).setWidth 32 = 0x00008408#32 := by rw [crc16_nil, hxor]; rfl
  rw [← hcrc]
  apply exec_crc_of_readBytes <;> rw [hlen']
  · exact hsrc
  · rfl

end Sys2Proof.Machine

namespace Sys2Proof.Proofs

open Sys2Proof.Machine

/-- Settles O11: CRC rejects outside RAM and answers the region's CRC inside it; CRC16 starts at CRC_INIT, and one more
byte is eight steps from the register (`crc16_append_singleton`, `crcByte_eq_iterate`). -/
theorem crcReportsTheRegionChecksum : Obligations.CrcReportsTheRegionChecksum := by
  unfold Obligations.CrcReportsTheRegionChecksum
  refine ⟨by decide, fun s => ⟨fun hpast => ?_, fun l => exec_crc_of_readBytes, exec_crc_of_len_zero⟩, crc16_nil,
    fun p l b => ?_⟩
  · exact exec_crc_of_not_inRange (Nat.not_le.mpr hpast)
  · rw [crc16_append_singleton, crcByte_eq_iterate]
    rfl

end Sys2Proof.Proofs
end

section
/-! 41_checksum.md R103: CRC_CHECK. What the header check, the body and the trailer are of a frame laid out as header, body
and trailer, and the three answers of the command. -/

namespace Sys2Proof.Machine

/-! ## The parts of a laid-out frame -/

section
variable {pp16 : Bool} {hdr : List Byte} (body : List Byte) (lo hi : Byte)

theorem headerOk_frame (h : hdr.length = headerLen pp16) :
    headerOk pp16 (hdr ++ body ++ [lo, hi]) = decide (headerLen pp16 = 0 ∨ hdr = pp16Header) := by
  cases pp16 with
  | false => rfl
  | true =>
    have htake : (hdr ++ body ++ [lo, hi]).take 4 = hdr := by
      rw [List.append_assoc]
      exact List.take_left' h
    rw [headerOk, htake]
    simp [headerLen, beq_eq_decide]

theorem frameBody_frame (h : hdr.length = headerLen pp16) : frameBody pp16 (hdr ++ body ++ [lo, hi]) = body := by
  rw [frameBody, List.length_append, List.length_cons, List.length_singleton, Nat.add_sub_cancel, List.take_left,
    List.drop_left' h]

theorem frameTrailer_append (f : List Byte) : frameTrailer (f ++ [lo, hi]) = hi ++ lo := by
  simp [frameTrailer, halfOfBytes]

end

/-! ## CRC_CHECK -/

theorem exec_crcCheck_of_short {s : State} (h : opLen s < headerLen (frmPp16 s) + 2) :
    exec .crcCheck s = reject .length s :=
  if_pos h

theorem exec_crcCheck_of_not_inRange {s : State} (hlen : headerLen (frmPp16 s) + 2 ≤ opLen s)
    (h : ¬ inRange s.params (opSrc s) (opLen s)) : exec .crcCheck s = reject .range s :=
  (if_neg (Nat.not_lt.mpr hlen)).trans (if_pos h)

theorem exec_crcCheck_of_readBytes {s : State} {f : List Byte} (hlen : headerLen (frmPp16 s) + 2 ≤ opLen s)
    (h : inRange s.params (opSrc s) (opLen s)) (hf : s.ram.readBytes (opSrc s) (opLen s) = .ok f) :
    exec .crcCheck s = .next (crcChecked f s) :=
  (if_neg (Nat.not_lt.mpr hlen)).trans <| (if_neg (not_not.mpr h)).trans (withBytes_of_ok _ hf)

/-- What an accepted CRC_CHECK of a laid-out frame leaves, in terms of the frame's parts. -/
theorem crcChecked_frame {s : State} {hdr : List Byte} (body : List Byte) (lo hi : Byte)
    (h : hdr.length = headerLen (frmPp16 s)) :
    crcChecked (hdr ++ body ++ [lo, hi]) s =
      accept ((crc16 s.params body).setWidth 32) ((hi ++ lo).setWidth 32)
        (if headerLen (frmPp16 s) = 0 ∨ hdr = pp16Header then 1#32 else 0#32)
        { s with matchBit :=
            decide ((headerLen (frmPp16 s) = 0 ∨ hdr = pp16Header) ∧ crc16 s.params body = hi ++ lo) } := by
  simp only [crcChecked, headerOk_frame body lo hi h, frameBody_frame body lo hi h, frameTrailer_append,
    decide_eq_true_eq, Bool.decide_and, beq_eq_decide]

end Sys2Proof.Machine

namespace Sys2Proof.Proofs

open Sys2Proof.Machine

/-- Settles O12: a frame shorter than header and trailer is LENGTH, one past the end of RAM is RANGE; any other frame is
checked, and its parts are those it was laid out from (`crcChecked_frame`). -/
theorem crcCheckComparesHeaderAndTrailer : Obligations.CrcCheckComparesHeaderAndTrailer := by
  unfold Obligations.CrcCheckComparesHeaderAndTrailer
  refine ⟨by decide, fun s => ⟨exec_crcCheck_of_short, fun hlen hpast => ?_, fun hdr body lo hi hin hhdr hread => ?_⟩⟩
  · exact exec_crcCheck_of_not_inRange hlen (Nat.not_le.mpr hpast)
  · change hdr.length = headerLen (frmPp16 s) at hhdr
    have hlen : headerLen (frmPp16 s) + 2 ≤ opLen s := by
      have hread_length := Memory.readBytes_length hread
      simp only [List.length_append, List.length_cons, List.length_nil, hhdr] at hread_length
      rw [opLen]
      omega
    rw [exec_crcCheck_of_readBytes hlen hin hread, crcChecked_frame body lo hi hhdr]
    rfl

end Sys2Proof.Proofs
end

section
/-! 42_compressor.md R110: what the runs of a sample list are. The stretches rebuild the list with no two equal neighbours;
splitting cuts each stretch into full pieces and a remainder of the same value. -/

namespace Sys2Proof.Machine

/-! ## Stretches -/

/-- One more sample in front either lengthens the first stretch or, its value being another, opens a stretch of its own. -/
theorem stretches_cons_cases (v : Byte) (l : List Byte) :
    (∃ n more, stretches l = (v, n) :: more ∧ stretches (v :: l) = (v, n + 1) :: more) ∨
      ((∀ r ∈ (stretches l).head?, v ≠ r.1) ∧ stretches (v :: l) = (v, 1) :: stretches l) := by
  rw [stretches]
  split
  · simp [*]
  · rename_i w n more hl
    split
    · subst v
      exact .inl ⟨n, more, hl, rfl⟩
    · rename_i hvw
      exact .inr ⟨by simpa [hl] using hvw, by rw [hl]⟩

theorem flatMap_stretches (l : List Byte) : (stretches l).flatMap (fun r => List.replicate r.2 r.1) = l := by
  induction l with
  | nil => rfl
  | cons v l ih =>
    obtain ⟨n, more, hl, hcons⟩ | ⟨-, hcons⟩ := stretches_cons_cases v l
    · rw [hl, List.flatMap_cons] at ih
      rw [hcons, List.flatMap_cons, List.replicate_succ, List.cons_append, ih]
    · rw [hcons, List.flatMap_cons, ih]
      rfl

theorem one_le_of_mem_stretches {l : List Byte} : ∀ r ∈ stretches l, 1 ≤ r.2 := by
  induction l with
  | nil => exact nofun
  | cons v l ih =>
    obtain ⟨n, more, hl, hcons⟩ | ⟨-, hcons⟩ := stretches_cons_cases v l
    · rw [hl, List.forall_mem_cons] at ih
      rw [hcons, List.forall_mem_cons]
      exact ⟨Nat.le_add_left 1 n, ih.2⟩
    · rw [hcons, List.forall_mem_cons]
      exact ⟨le_rfl, ih⟩

/-- The stretches are maximal: neighbours differ in value. -/
theorem isChain_stretches (l : List Byte) : (stretches l).IsChain fun a b => a.1 ≠ b.1 := by
  induction l with
  | nil => exact .nil
  | cons v l ih =>
    obtain ⟨n, more, hl, hcons⟩ | ⟨hne, hcons⟩ := stretches_cons_cases v l
    · rw [hl, List.isChain_cons] at ih
      rw [hcons]
      exact List.isChain_cons.mpr ih
    · rw [hcons]
      exact List.isChain_cons.mpr ⟨hne, ih⟩

/-! ## Splitting one stretch -/

theorem mem_splitRun {r piece : Byte × Nat} (h : piece ∈ splitRun r) : piece.1 = r.1 ∧ 1 ≤ piece.2 ∧ piece.2 ≤ 16383 := by
  rw [splitRun, List.mem_append] at h
  obtain hfull | hrest := h
  · rw [List.eq_of_mem_replicate hfull]
    exact ⟨rfl, (by decide : 1 ≤ rleMaxRun), le_rfl⟩
  · split at hrest
    · cases hrest
    · rw [List.mem_singleton.mp hrest]
      unfold rleMaxRun at *
      refine ⟨rfl, ?_, ?_⟩ <;> dsimp only <;> omega

/-- The pieces hold the samples of the stretch: n = 16383 · (n / 16383) + n mod 16383. -/
theorem flatMap_splitRun (r : Byte × Nat) :
    (splitRun r).flatMap (fun piece => List.replicate piece.2 piece.1) = List.replicate r.2 r.1 := by
  have hrest : (if r.2 % rleMaxRun = 0 then [] else [(r.1, r.2 % rleMaxRun)]).flatMap
      (fun piece => List.replicate piece.2 piece.1) = List.replicate (r.2 % rleMaxRun) r.1 := by
    split <;> simp [*]
  rw [splitRun, List.flatMap_append, hrest, List.flatMap_replicate, List.flatten_replicate_replicate,
    List.replicate_append_replicate, Nat.div_add_mod']

theorem splitRun_ne_nil {r : Byte × Nat} (h : 1 ≤ r.2) : splitRun r ≠ [] := by
  intro hnil
  have hsamples := congrArg List.length (flatMap_splitRun r)
  rw [hnil, List.flatMap_nil, List.length_replicate, List.length_nil] at hsamples
  omega

/-- Only the last piece of a stretch can be short. -/
theorem isChain_splitRun (r : Byte × Nat) : (splitRun r).IsChain fun a _ => a.2 = 16383 := by
  rw [splitRun, List.isChain_append]
  refine ⟨List.isChain_replicate_of_rel _ rfl, ?_, fun piece hpiece _ _ => ?_⟩
  · split
    · exact .nil
    · exact .singleton _
  · rw [List.eq_of_mem_replicate (List.mem_of_mem_getLast? hpiece)]
    rfl

/-! ## Runs -/

theorem flatMap_runs (l : List Byte) : (runs l).flatMap (fun r => List.replicate r.2 r.1) = l := by
  rw [runs, List.flatMap_assoc]
  simp only [flatMap_splitRun]
  exact flatMap_stretches l

theorem length_of_mem_runs {l : List Byte} : ∀ r ∈ runs l, 1 ≤ r.2 ∧ r.2 ≤ 16383 := by
  intro r hr
  obtain ⟨stretch, -, hpiece⟩ := List.mem_flatMap.mp hr
  exact (mem_splitRun hpiece).2

/-- Within a stretch the earlier piece is full; from one stretch to the next the value changes. -/
theorem isChain_runs (l : List Byte) : (runs l).IsChain fun a b => a.1 = b.1 → a.2 = 16383 := by
  have hnil : [] ∉ (stretches l).map splitRun := by
    rw [List.mem_map]
    rintro ⟨r, hr, hsplit⟩
    exact splitRun_ne_nil (one_le_of_mem_stretches r hr) hsplit
  rw [runs, List.flatMap_def, List.isChain_flatten hnil, List.forall_mem_map, List.isChain_map]
  refine ⟨fun r _ => (isChain_splitRun r).imp fun _ _ hfull _ => hfull, (isChain_stretches l).imp ?_⟩
  intro a b hne x hx y hy hxy
  have hxa := (mem_splitRun (List.mem_of_mem_getLast? hx)).1
  have hyb := (mem_splitRun (List.mem_of_mem_head? hy)).1
  exact absurd (hxa.symm.trans (hxy.trans hyb)) hne

end Sys2Proof.Machine

namespace Sys2Proof.Proofs

open Sys2Proof.Machine

/-- Settles O34: the stretches rebuild the list with neighbours of different values, and splitting keeps each stretch's
samples while only its last piece can be short. -/
theorem runsSplitTheSamplesMaximally : Obligations.RunsSplitTheSamplesMaximally := by
  unfold Obligations.RunsSplitTheSamplesMaximally
  exact fun l => ⟨flatMap_runs l, length_of_mem_runs, isChain_runs l⟩

end Sys2Proof.Proofs
end

section
/-! 42_compressor.md R111: the count code in terms of the binary digits of the count, as Mathlib's `Nat.size` counts them. -/

namespace Sys2Proof.Machine

theorem bitLength_eq_size {n : Nat} (h : n ≠ 0) : bitLength n = Nat.size n :=
  le_antisymm (Nat.lt_size.mpr (Nat.log2_self_le h)) (Nat.size_le.mpr Nat.lt_log2_self)

/-- The `k` low binary digits of `n` as samples, most significant first: what `gamma` puts after its zeros. -/
def binaryDigits (k n : Nat) : List Byte := (List.range k).reverse.map fun i => bitSample (n.testBit i)

theorem gamma_eq {n : Nat} (h : n ≠ 0) :
    gamma n = List.replicate (Nat.size n - 1) 0x00#8 ++ binaryDigits (Nat.size n) n := by
  rw [← bitLength_eq_size h]
  rfl

@[simp] theorem length_binaryDigits (k n : Nat) : (binaryDigits k n).length = k := by
  simp [binaryDigits]

theorem binaryDigits_succ (k n : Nat) : binaryDigits (k + 1) n = bitSample (n.testBit k) :: binaryDigits k n := by
  simp [binaryDigits, List.range_succ]

theorem length_gamma {n : Nat} (h : n ≠ 0) : (gamma n).length = 2 * Nat.size n - 1 := by
  have hsize := Nat.size_pos.mpr (Nat.pos_of_ne_zero h)
  rw [gamma_eq h, List.length_append, List.length_replicate, length_binaryDigits]
  omega

/-- The leading binary digit of a positive number is 1. -/
theorem head?_binaryDigits_size {n : Nat} (h : n ≠ 0) : (binaryDigits (Nat.size n) n).head? = some 0x01#8 := by
  rw [← bitLength_eq_size h, bitLength, binaryDigits_succ, Nat.testBit_log2 h]
  rfl

theorem bitSample_eq_zero_or_one (b : Bool) : bitSample b = 0x00#8 ∨ bitSample b = 0x01#8 := by
  cases b <;> decide

theorem toNat_bitSample (b : Bool) : (bitSample b).toNat = b.toNat := by
  cases b <;> rfl

theorem eq_zero_or_one_of_mem_binaryDigits {k n : Nat} : ∀ d ∈ binaryDigits k n, d = 0x00#8 ∨ d = 0x01#8 :=
  List.forall_mem_map.mpr fun _ _ => bitSample_eq_zero_or_one _

/-- Reading the digits after a number shifts it by `k` places and adds the low `k` places of `n`. -/
theorem foldl_binaryDigits (k n acc : Nat) :
    (binaryDigits k n).foldl (fun acc d => 2 * acc + d.toNat) acc = 2 ^ k * acc + n % 2 ^ k := by
  induction k generalizing acc with
  | zero => simp [binaryDigits, Nat.mod_one]
  | succ k ih =>
    rw [binaryDigits_succ, List.foldl_cons, ih, toNat_bitSample, Nat.toNat_testBit, Nat.mod_pow_succ]
    ring

end Sys2Proof.Machine

namespace Sys2Proof.Proofs

open Sys2Proof.Machine

/-- Settles O33: the digits after the zeros are `binaryDigits` of the whole width, and n below 2 ^ (its size) is read back
in full; the bound of R111 is not needed. -/
theorem gammaIsZerosThenTheBinaryDigits : Obligations.GammaIsZerosThenTheBinaryDigits := by
  unfold Obligations.GammaIsZerosThenTheBinaryDigits
  intro n hpos _
  have hn : n ≠ 0 := Nat.ne_of_gt hpos
  refine ⟨binaryDigits (Nat.size n) n, gamma_eq hn, length_binaryDigits _ _, length_gamma hn, head?_binaryDigits_size hn,
    eq_zero_or_one_of_mem_binaryDigits, ?_⟩
  rw [foldl_binaryDigits, Nat.mul_zero, Nat.zero_add, Nat.mod_eq_of_lt (Nat.lt_size_self n)]

end Sys2Proof.Proofs
end

section
/-! 42_compressor.md R115: Pack bit by bit. The samples of a list are the binary digits of its value, the first the most
significant; byte k is the value of samples 8k to 8k + 7. -/

namespace Sys2Proof.Machine

/-! ## One packed byte -/

/-- The number whose binary digits are the samples, most significant first: what `packByte` keeps in eight bits. -/
def sampleValue (l : List Byte) : Nat := l.foldl (fun acc x => 2 * acc + (if x = 0x00#8 then 0 else 1)) 0

theorem packByte_eq (l : List Byte) : packByte l = BitVec.ofNat 8 (sampleValue l) := rfl

theorem sampleValue_concat (l : List Byte) (x : Byte) :
    sampleValue (l ++ [x]) = Nat.bit (decide (x ≠ 0x00#8)) (sampleValue l) := by
  rw [sampleValue, List.foldl_concat, Nat.bit_val]
  by_cases hx : x = 0x00#8 <;> simp [hx, sampleValue]

theorem testBit_sampleValue {l : List Byte} {j : Nat} (h : j < l.length) :
    (sampleValue l).testBit (l.length - 1 - j) = decide (l.getD j 0x00#8 ≠ 0x00#8) := by
  induction l using List.reverseRecOn with
  | nil => exact absurd h (Nat.not_lt_zero j)
  | append_singleton l x ih =>
    rw [List.length_append, List.length_singleton] at h ⊢
    rw [Nat.add_sub_cancel, sampleValue_concat]
    obtain hlt | rfl := Nat.lt_succ_iff_lt_or_eq.mp h
    · have hbit : l.length - j = (l.length - 1 - j) + 1 := by omega
      rw [hbit, Nat.testBit_bit_succ, ih hlt, List.getD_append _ _ _ _ hlt]
    · rw [Nat.sub_self, Nat.testBit_bit_zero]
      simp

theorem getLsbD_packByte {l : List Byte} {j : Nat} (hl : l.length = 8) (hj : j < 8) :
    (packByte l).getLsbD (7 - j) = decide (l.getD j 0x00#8 ≠ 0x00#8) := by
  have hbit := testBit_sampleValue (hl ▸ hj)
  rw [hl] at hbit
  rw [packByte_eq, BitVec.getLsbD_ofNat, hbit, decide_eq_true (by omega : 7 - j < 8), Bool.true_and]

/-! ## Every packed byte -/

theorem getD_packBytes {i k : Nat} (l : List Byte) (h : i < k) :
    (packBytes k l).getD i 0x00#8 = packByte ((l.drop (8 * i)).take 8) := by
  induction k generalizing i l with
  | zero => exact absurd h (Nat.not_lt_zero i)
  | succ k ih =>
    cases i with
    | zero => rfl
    | succ i =>
      rw [packBytes, List.getD_cons_succ, ih _ (Nat.lt_of_succ_lt_succ h), List.drop_drop, Nat.mul_succ, Nat.add_comm 8]

theorem getD_block (l : List Byte) {k j : Nat} (h : j < 8) :
    ((l.drop (8 * k)).take 8).getD j 0x00#8 = l.getD (8 * k + j) 0x00#8 := by
  rw [List.getD_eq_getElem?_getD, List.getElem?_take_of_lt h, List.getElem?_drop, ← List.getD_eq_getElem?_getD]

theorem getLsbD_packSamples (l : List Byte) {k j : Nat} (hk : k < l.length / 8) (hj : j < 8) :
    ((packSamples l).getD k 0x00#8).getLsbD (7 - j) = decide (l.getD (8 * k + j) 0x00#8 ≠ 0x00#8) := by
  have hblock : ((l.drop (8 * k)).take 8).length = 8 := by
    rw [List.length_take, List.length_drop]
    omega
  rw [packSamples, getD_packBytes l hk, getLsbD_packByte hblock hj, getD_block l hj]

end Sys2Proof.Machine

namespace Sys2Proof.Proofs

open Sys2Proof.Machine

/-- Settles O40: byte k is packed from the block of samples 8k to 8k + 7, and bit 7 − j of a packed byte is digit j of its
block's value (`getLsbD_packByte`); a list that is no multiple of 8 would only lose its last samples. -/
theorem packedBitsAreTheSamples : Obligations.PackedBitsAreTheSamples := by
  unfold Obligations.PackedBitsAreTheSamples
  exact fun l _ => ⟨packSamples_length l, fun k j hk hj => getLsbD_packSamples l hk hj⟩

end Sys2Proof.Proofs
end

section
/-! 43_frame_builder.md R121 to R126: the length of a terminated frame, and the answers of the four BUILD commands, one
lemma per answer in the order of the checks. BUILD_MCU and BUILD_RAW differ in the lead alone. -/

namespace Sys2Proof.Machine

/-! ## The length of a frame -/

theorem frameLen_pingBody (pp16 : Bool) : frameLen 32 pp16 = if pp16 then 38 else 34 := by
  cases pp16 <;> rfl

theorem terminate_pingBody_length (p : Params) (s : State) (pp16 : Bool) :
    (terminate p (pingBody s) pp16).length = frameLen 32 pp16 := by
  rw [terminate_length, pingBody_length]

theorem terminate_append_length_of_readBytes {m : Memory} {a n : Nat} {payload : List Byte}
    (h : m.readBytes a n = .ok payload) (p : Params) (lead : List Byte) (pp16 : Bool) :
    (terminate p (lead ++ payload) pp16).length = frameLen (lead.length + n) pp16 := by
  rw [terminate_length, List.length_append, Memory.readBytes_length h]

/-! ## BUILD_PING -/

theorem exec_buildPing_of_not_inRange {s : State} (h : ¬ inRange s.params (opDst s) (frameLen 32 (frmPp16 s))) :
    exec .buildPing s = reject .range s :=
  if_pos h

theorem exec_buildPing_of_inRange {s : State} (h : inRange s.params (opDst s) (frameLen 32 (frmPp16 s))) :
    exec .buildPing s = .next (frameStored (pingBody s) 0#32 0#32 s) :=
  if_neg (not_not.mpr h)

/-! ## The regions of a command with an input of LEN bytes and an output of `n` bytes -/

/-- The input region and the output region lie in RAM (40_command_common.md R93). -/
def RegionsFit (n : Nat) (s : State) : Prop :=
  inRange s.params (opSrc s) (opLen s) ∧ inRange s.params (opDst s) n

/-- The input region and the output region share a byte (40_command_common.md R94). -/
def RegionsShare (n : Nat) (s : State) : Prop := overlap (opSrc s) (opLen s) (opDst s) n

theorem not_regionsFit_iff {n : Nat} {s : State} :
    ¬ RegionsFit n s ↔ ¬ inRange s.params (opSrc s) (opLen s) ∨ ¬ inRange s.params (opDst s) n :=
  not_and_or

/-- The RANGE check of a command with two regions does not reject regions that fit. -/
theorem RegionsFit.range_check {n : Nat} {s : State} (h : RegionsFit n s) :
    ¬ (¬ inRange s.params (opSrc s) (opLen s) ∨ ¬ inRange s.params (opDst s) n) :=
  fun hpast => not_regionsFit_iff.mpr hpast h

/-! ## BUILD_MCU and BUILD_RAW -/

section
variable {lead : List Byte} {s : State}

theorem buildFromPayload_of_not_fit (h : ¬ RegionsFit (frameLen (lead.length + opLen s) (frmPp16 s)) s) :
    buildFromPayload lead s = reject .range s :=
  if_pos (not_regionsFit_iff.mp h)

theorem buildFromPayload_of_share (hfit : RegionsFit (frameLen (lead.length + opLen s) (frmPp16 s)) s)
    (hshare : RegionsShare (frameLen (lead.length + opLen s) (frmPp16 s)) s) :
    buildFromPayload lead s = reject .overlap s :=
  (if_neg hfit.range_check).trans (if_pos hshare)

theorem buildFromPayload_of_readBytes {payload : List Byte}
    (hfit : RegionsFit (frameLen (lead.length + opLen s) (frmPp16 s)) s)
    (hshare : ¬ RegionsShare (frameLen (lead.length + opLen s) (frmPp16 s)) s)
    (hread : s.ram.readBytes (opSrc s) (opLen s) = .ok payload) :
    buildFromPayload lead s = .next (frameStored (lead ++ payload) 0#32 0#32 s) :=
  (if_neg hfit.range_check).trans ((if_neg hshare).trans (withBytes_of_ok _ hread))

end

/-- The answers of R123 and R124 for any lead, in the order of the checks, with the length of the frame stored. -/
theorem buildFromPayload_spec (lead : List Byte) (s : State) :
    let lout := frameLen (lead.length + opLen s) (frmPp16 s)
    (¬ RegionsFit lout s → buildFromPayload lead s = reject .range s) ∧
    (RegionsFit lout s → RegionsShare lout s → buildFromPayload lead s = reject .overlap s) ∧
    ∀ payload, RegionsFit lout s → ¬ RegionsShare lout s → s.ram.readBytes (opSrc s) (opLen s) = .ok payload →
      (terminate s.params (lead ++ payload) (frmPp16 s)).length = lout ∧
        buildFromPayload lead s = .next (frameStored (lead ++ payload) 0#32 0#32 s) :=
  ⟨buildFromPayload_of_not_fit, buildFromPayload_of_share, fun _ hfit hshare hread =>
    ⟨terminate_append_length_of_readBytes hread _ _ _, buildFromPayload_of_readBytes hfit hshare hread⟩⟩

/-! ## BUILD_DATA -/

/-- The length of the numbered data frame: ten bytes of lead, two of index and the chunk before the trailer (R126). -/
def dataFrameLen (s : State) : Nat := frameLen (12 + chunkCount (opLen s) (opIndex s)) (frmPp16 s)

section
variable {s : State}

theorem exec_buildData_of_no_chunk (h : opLen s ≤ dataChunk * opIndex s) : exec .buildData s = reject .length s :=
  if_pos h

theorem exec_buildData_of_not_fit (hchunk : dataChunk * opIndex s < opLen s) (h : ¬ RegionsFit (dataFrameLen s) s) :
    exec .buildData s = reject .range s :=
  (if_neg (Nat.not_le.mpr hchunk)).trans (if_pos (not_regionsFit_iff.mp h))

theorem exec_buildData_of_share (hchunk : dataChunk * opIndex s < opLen s) (hfit : RegionsFit (dataFrameLen s) s)
    (hshare : RegionsShare (dataFrameLen s) s) : exec .buildData s = reject .overlap s :=
  (if_neg (Nat.not_le.mpr hchunk)).trans ((if_neg hfit.range_check).trans (if_pos hshare))

theorem exec_buildData_of_readBytes {chunk : List Byte} (hchunk : dataChunk * opIndex s < opLen s)
    (hfit : RegionsFit (dataFrameLen s) s) (hshare : ¬ RegionsShare (dataFrameLen s) s)
    (hread : s.ram.readBytes (opSrc s + dataChunk * opIndex s) (chunkCount (opLen s) (opIndex s)) = .ok chunk) :
    exec .buildData s =
      .next (frameStored (mcuLead s ++ halfBytes s.index ++ chunk) (countWord (chunkCount (opLen s) (opIndex s)))
        (countWord (chunkFrames (opLen s))) s) :=
  (if_neg (Nat.not_le.mpr hchunk)).trans <| (if_neg hfit.range_check).trans <|
    (if_neg hshare).trans (withBytes_of_ok _ hread)

end

end Sys2Proof.Machine

namespace Sys2Proof.Proofs

open Sys2Proof.Machine

/-- Settles O13: the frame is the terminated ping body, whose length the RANGE check takes (`terminate_pingBody_length`). -/
theorem buildPingStoresThePingFrame : Obligations.BuildPingStoresThePingFrame := by
  unfold Obligations.BuildPingStoresThePingFrame
  refine ⟨by decide, fun s => ?_⟩
  have hlen := terminate_pingBody_length s.params s (frmPp16 s)
  refine ⟨hlen.trans (frameLen_pingBody _), fun hpast => ?_, fun hin => ?_⟩
  · exact exec_buildPing_of_not_inRange (hlen ▸ Nat.not_le.mpr hpast)
  · exact exec_buildPing_of_inRange (hlen ▸ hin)

/-- Settles O14: BUILD_MCU is the shared construction with the ten bytes of `mcuLead` before the payload. -/
theorem buildMcuStoresTheMcuFrame : Obligations.BuildMcuStoresTheMcuFrame := by
  unfold Obligations.BuildMcuStoresTheMcuFrame
  exact ⟨by decide, fun s => buildFromPayload_spec (mcuLead s) s⟩

/-- Settles O15: BUILD_RAW is the shared construction with the six bytes of `rawLead` before the payload. -/
theorem buildRawStoresTheRawFrame : Obligations.BuildRawStoresTheRawFrame := by
  unfold Obligations.BuildRawStoresTheRawFrame
  exact ⟨by decide, fun s => buildFromPayload_spec (rawLead s) s⟩

/-- Settles O16: the checks take the whole buffer; what is framed is the MCU lead and the index, twelve bytes, and then the
chunk that was read. -/
theorem buildDataStoresTheNumberedFrame : Obligations.BuildDataStoresTheNumberedFrame := by
  unfold Obligations.BuildDataStoresTheNumberedFrame
  refine ⟨by decide, fun s => ⟨exec_buildData_of_no_chunk, exec_buildData_of_not_fit, exec_buildData_of_share,
    fun chunk hchunk hfit hshare hread => ⟨?_, exec_buildData_of_readBytes hchunk hfit hshare hread⟩⟩⟩
  exact terminate_append_length_of_readBytes hread s.params (mcuLead s ++ halfBytes s.index) (frmPp16 s)

end Sys2Proof.Proofs
end

section
/-! 44_ir_engine.md R181: the bit-to-symbol mapper, symbol by symbol. -/

namespace Sys2Proof.Machine

theorem symbols_cons (b : Byte) (f : List Byte) : symbols (b :: f) = byteSymbols b ++ symbols f := rfl

@[simp] theorem length_byteSymbols (b : Byte) : (byteSymbols b).length = 4 := rfl

theorem length_symbols (f : List Byte) : (symbols f).length = 4 * f.length := by
  induction f with
  | nil => rfl
  | cons b f ih =>
    rw [symbols_cons, List.length_append, ih, length_byteSymbols, List.length_cons, Nat.mul_succ, Nat.add_comm]

/-- Symbol `j` of a byte is its bits 7 − 2j : 6 − 2j. -/
theorem getElem?_byteSymbols (b : Byte) {j : Nat} (h : j < 4) :
    (byteSymbols b)[j]? = some (b.extractLsb' (6 - 2 * j) 2) := by
  interval_cases j <;> rfl

theorem getElem?_symbols {f : List Byte} {i j : Nat} {b : Byte} (hb : f[i]? = some b) (hj : j < 4) :
    (symbols f)[4 * i + j]? = some (b.extractLsb' (6 - 2 * j) 2) := by
  induction f generalizing i with
  | nil => cases hb
  | cons c f ih =>
    rw [symbols_cons]
    cases i with
    | zero =>
      cases hb
      rw [Nat.mul_zero, Nat.zero_add, List.getElem?_append_left hj, getElem?_byteSymbols _ hj]
    | succ i =>
      have hindex : 4 * (i + 1) + j = (byteSymbols c).length + (4 * i + j) := by
        rw [length_byteSymbols]
        omega
      rw [hindex, List.getElem?_append_right (Nat.le_add_right _ _), Nat.add_sub_cancel_left, ih hb]

end Sys2Proof.Machine

namespace Sys2Proof.Proofs

open Sys2Proof.Machine

/-- Settles O41, by induction on the bytes: each puts its four symbols before those of the bytes after it. -/
theorem symbolsAreCutMostSignificantFirst : Obligations.SymbolsAreCutMostSignificantFirst := by
  unfold Obligations.SymbolsAreCutMostSignificantFirst
  exact fun f => ⟨length_symbols f, fun _ _ _ => getElem?_symbols⟩

end Sys2Proof.Proofs
end

section
/-! 44_ir_engine.md R182 to R184: the clocks of a waveform part by part, their bound from below, and the level inside a
segment. -/

namespace Sys2Proof.Machine

/-- The clocks of a waveform: its segments' lengths added up. -/
def waveClocks (w : Waveform) : Nat := (w.map Prod.snd).sum

/-! ## The clocks of each part -/

@[simp] theorem waveClocks_nil : waveClocks [] = 0 := rfl

@[simp] theorem waveClocks_cons (v : Bool) (n : Nat) (w : Waveform) : waveClocks ((v, n) :: w) = n + waveClocks w := by
  simp [waveClocks]

@[simp] theorem waveClocks_append (w1 w2 : Waveform) : waveClocks (w1 ++ w2) = waveClocks w1 + waveClocks w2 := by
  simp [waveClocks]

theorem waveClocks_replicate_flatten (n : Nat) (w : Waveform) :
    waveClocks (List.replicate n w).flatten = n * waveClocks w := by
  induction n with
  | zero => simp
  | succ n ih => rw [List.replicate_succ, List.flatten_cons, waveClocks_append, ih, Nat.succ_mul, Nat.add_comm]

theorem waveClocks_burst (p : Params) (n : Nat) : waveClocks (burst p n) = n * carrierPeriod p := by
  rw [burst, waveClocks_replicate_flatten]
  rfl

theorem waveClocks_symbolWave (p : Params) (s : Symbol) :
    waveClocks (symbolWave p s) = p.burstN * carrierPeriod p + pauseOf p s := by
  simp [symbolWave, waveClocks_burst]

/-- Every symbol takes the same burst; only the pauses differ. -/
theorem waveClocks_flatMap_symbolWave (p : Params) (l : List Symbol) :
    waveClocks (l.flatMap (symbolWave p)) = l.length * (p.burstN * carrierPeriod p) + (l.map (pauseOf p)).sum := by
  induction l with
  | nil => simp
  | cons s l ih =>
    rw [List.flatMap_cons, waveClocks_append, waveClocks_symbolWave, ih, List.length_cons, List.map_cons, List.sum_cons]
    ring

theorem waveClocks_passWave (p : Params) (f : List Byte) :
    waveClocks (passWave p f) =
      4 * f.length * p.burstN * carrierPeriod p + ((symbols f).map (pauseOf p)).sum + p.termN * carrierPeriod p +
        p.ifd := by
  simp [passWave, waveClocks_flatMap_symbolWave, waveClocks_burst, length_symbols, Nat.mul_assoc, Nat.add_assoc]

theorem duration_eq (p : Params) (f : List Byte) (r : Half) :
    duration p f r = r.toNat * waveClocks (passWave p f) := by
  rw [waveClocks_passWave, duration]

theorem waveClocks_wave (p : Params) (f : List Byte) (r : Half) : waveClocks (wave p f r) = duration p f r := by
  rw [wave, waveClocks_replicate_flatten, duration_eq]

/-! ## No legal frame is silent -/

theorem burstOk_of_wf {p : Params} (h : p.wf = true) : 1 ≤ p.carHi ∧ 1 ≤ p.carLo ∧ 1 ≤ p.burstN ∧ 1 ≤ p.termN := by
  simp only [Params.wf, Params.burstOk, Bool.and_eq_true, decide_eq_true_eq] at h
  tauto

/-- A legal configuration sends four bursts of at least two clocks a period for the first byte of the first pass. -/
theorem le_duration_of_wf {p : Params} {f : List Byte} {r : Half} (hp : p.wf = true) (hr : r ≠ 0#16) (hf : f ≠ []) :
    4 * p.burstN * 2 ≤ duration p f r := by
  obtain ⟨hhi, hlo, -, -⟩ := burstOk_of_wf hp
  have hlen : 4 ≤ 4 * f.length := Nat.le_mul_of_pos_right 4 (List.length_pos_iff.mpr hf)
  have hperiod : 2 ≤ carrierPeriod p := Nat.add_le_add hhi hlo
  have hpos : 0 < r.toNat := Nat.pos_of_ne_zero fun h => hr (BitVec.eq_of_toNat_eq h)
  calc 4 * p.burstN * 2
    _ ≤ 4 * f.length * p.burstN * carrierPeriod p := by gcongr
    _ ≤ waveClocks (passWave p f) := by rw [waveClocks_passWave]; omega
    _ ≤ duration p f r := by rw [duration_eq]; exact Nat.le_mul_of_pos_left _ hpos

/-! ## The level inside a waveform -/

theorem level_append_add (w1 w2 : Waveform) (k : Nat) : level (w1 ++ w2) (waveClocks w1 + k) = level w2 k := by
  induction w1 with
  | nil => rw [waveClocks_nil, Nat.zero_add, List.nil_append]
  | cons seg w1 ih =>
    obtain ⟨v, n⟩ := seg
    rw [waveClocks_cons, Nat.add_assoc, List.cons_append, level, if_neg (by omega), Nat.add_sub_cancel_left, ih]

theorem level_in_segment (w1 w2 : Waveform) (v : Bool) {n k : Nat} (h : k < n) :
    level (w1 ++ (v, n) :: w2) (waveClocks w1 + k) = v := by
  rw [level_append_add, level, if_pos h]

/-! ## The pauses as a table -/

theorem pauseOf_eq_getD (p : Params) (s : Symbol) :
    pauseOf p s = [p.pause0, p.pause1, p.pause2, p.pause3].getD s.toNat 0 := by
  obtain rfl | rfl | rfl | rfl : s = 0#2 ∨ s = 1#2 ∨ s = 2#2 ∨ s = 3#2 := by revert s; decide
  all_goals rfl

end Sys2Proof.Machine

namespace Sys2Proof.Proofs

open Sys2Proof.Machine

/-- Settles O42: the clocks of Wave(F, R) are added up part by part (`waveClocks_wave`), and the clocks of the segments
before one are subtracted on the way to it (`level_append_add`). -/
theorem waveLastsExactlyItsDuration : Obligations.WaveLastsExactlyItsDuration := by
  unfold Obligations.WaveLastsExactlyItsDuration
  intro p f r
  dsimp only
  simp only [← pauseOf_eq_getD]
  refine ⟨rfl, rfl, rfl, waveClocks_wave p f r, Nat.zero_mul _, fun hp hr hf => ?_,
    fun w1 w2 v _ _ => level_in_segment w1 w2 v⟩
  have hle := le_duration_of_wf hp hr hf
  obtain ⟨-, -, hburst, -⟩ := burstOk_of_wf hp
  exact ⟨hle, by omega⟩

end Sys2Proof.Proofs
end

section
/-! 44_ir_engine.md R185 to R188: the output, and the rule's own equations of Launch, Complete and Tick. -/

namespace Sys2Proof.Machine

theorem irOut_of_idle {s : State} (h : s.eng = .idle) : irOut s = false := by
  rw [irOut, h]

theorem irOut_of_active {s : State} {o : Origin} {f : List Byte} {r : Half} {t : Nat} (h : s.eng = .active o f r t) :
    irOut s = level (wave s.params f r) t := by
  rw [irOut, h]

theorem launch_of_duration_zero {o : Origin} {f : List Byte} {r : Half} {s : State} (h : duration s.params f r = 0) :
    launch o f r s = complete o s :=
  if_pos h

theorem launch_of_duration_pos {o : Origin} {f : List Byte} {r : Half} {s : State} (h : 0 < duration s.params f r) :
    launch o f r s = { s with eng := .active o f r 0 } :=
  if_neg (Nat.ne_of_gt h)

/-- R187 before it looks at the queue: the frame counted, a queued head released, the engine idle. -/
def counted (o : Origin) (s : State) : State :=
  { s with framesSent := s.framesSent + 1#32, queue := releaseHead o s.queue, eng := .idle }

theorem complete_of_nil {o : Origin} {s : State} (h : (counted o s).queue = []) : complete o s = counted o s := by
  change releaseHead o s.queue = [] at h
  rw [complete, counted, h]
  rfl

/-- `startQueue` is R187's recursion through R186: its step over the head is the launch of the head. -/
theorem complete_of_cons {o : Origin} {s : State} {e : QEntry} {q : List QEntry} (h : (counted o s).queue = e :: q) :
    complete o s = launch .queued e.frame e.repeats (counted o s) := by
  change releaseHead o s.queue = e :: q at h
  rw [complete, counted, h, startQueue, launch]
  split <;> rfl

theorem releaseHead_eq_ite (o : Origin) (q : List QEntry) : releaseHead o q = if o = .queued then q.tail else q := by
  cases o <;> rfl

theorem tick_of_idle {s : State} (h : s.eng = .idle) : tick s = s := by
  rw [tick, h]

theorem tick_of_active {s : State} {o : Origin} {f : List Byte} {r : Half} {t : Nat} (h : s.eng = .active o f r t) :
    tick s = if t + 1 < duration s.params f r then { s with eng := .active o f r (t + 1) } else complete o s := by
  rw [tick, h]

end Sys2Proof.Machine

namespace Sys2Proof.Proofs

open Sys2Proof.Machine

/-- Settles O43: the output is a function of the engine alone. -/
theorem outputFollowsTheWaveform : Obligations.OutputFollowsTheWaveform := by
  unfold Obligations.OutputFollowsTheWaveform
  exact fun s => ⟨irOut_of_idle, fun _ _ _ _ => irOut_of_active⟩

/-- Settles O44: the model's `launch` is R186 as it stands. -/
theorem launchActivatesOrCompletes : Obligations.LaunchActivatesOrCompletes := by
  unfold Obligations.LaunchActivatesOrCompletes launch
  exact fun _ _ _ _ => rfl

/-- Settles O45: the model's recursion over the queue is the rule's mutual recursion of Complete and Launch
(`complete_of_cons`). -/
theorem completeCountsReleasesAndRelaunches : Obligations.CompleteCountsReleasesAndRelaunches := by
  unfold Obligations.CompleteCountsReleasesAndRelaunches
  intro o s
  rw [← releaseHead_eq_ite]
  exact ⟨complete_of_nil, fun _ _ => complete_of_cons⟩

/-- Settles O46: by the engine's two forms. -/
theorem tickAdvancesOrCompletes : Obligations.TickAdvancesOrCompletes := by
  unfold Obligations.TickAdvancesOrCompletes
  exact fun s => ⟨tick_of_idle, fun _ _ _ _ => tick_of_active⟩

end Sys2Proof.Proofs
end

section
/-! 44_ir_engine.md R190, R191: TX and QUEUE, one lemma per answer in the order of the checks. Both take the same region
and differ in the third check and in what becomes of the frame read. -/

namespace Sys2Proof.Machine

/-! ## The operands of a transmission -/

/-- The LENGTH check of TX and QUEUE passes: 1 ≤ LEN ≤ MAX_FRAME. -/
def FrameLengthOk (s : State) : Prop := opLen s ≠ 0 ∧ opLen s ≤ s.params.maxFrame

theorem length_check_iff (s : State) : (opLen s = 0 ∨ s.params.maxFrame < opLen s) ↔ ¬ FrameLengthOk s := by
  rw [FrameLengthOk, not_and_or, not_not, Nat.not_le]

section
variable {s : State}

theorem FrameLengthOk.length_check (h : FrameLengthOk s) : ¬ (opLen s = 0 ∨ s.params.maxFrame < opLen s) :=
  fun hbad => (length_check_iff s).mp hbad h

/-! ## TX -/

theorem exec_tx_of_bad_length (h : ¬ FrameLengthOk s) : exec .tx s = reject .length s :=
  if_pos ((length_check_iff s).mpr h)

theorem exec_tx_of_not_inRange (hlen : FrameLengthOk s) (h : ¬ inRange s.params (opSrc s) (opLen s)) :
    exec .tx s = reject .range s :=
  (if_neg hlen.length_check).trans (if_pos h)

theorem exec_tx_of_active (hlen : FrameLengthOk s) (hin : inRange s.params (opSrc s) (opLen s)) (h : s.eng ≠ .idle) :
    exec .tx s = reject .busy s :=
  (if_neg hlen.length_check).trans <| (if_neg (not_not.mpr hin)).trans (if_pos h)

theorem exec_tx_of_readBytes {f : List Byte} (hlen : FrameLengthOk s) (hin : inRange s.params (opSrc s) (opLen s))
    (hidle : s.eng = .idle) (hread : s.ram.readBytes (opSrc s) (opLen s) = .ok f) :
    exec .tx s = .next (launch .direct f s.repeatCount (accept 0#32 0#32 0#32 s)) :=
  (if_neg hlen.length_check).trans <| (if_neg (not_not.mpr hin)).trans <|
    (if_neg (not_not.mpr hidle)).trans (withBytes_of_ok _ hread)

/-! ## QUEUE -/

theorem exec_queue_of_bad_length (h : ¬ FrameLengthOk s) : exec .queue s = reject .length s :=
  if_pos ((length_check_iff s).mpr h)

theorem exec_queue_of_not_inRange (hlen : FrameLengthOk s) (h : ¬ inRange s.params (opSrc s) (opLen s)) :
    exec .queue s = reject .range s :=
  (if_neg hlen.length_check).trans (if_pos h)

theorem exec_queue_of_full (hlen : FrameLengthOk s) (hin : inRange s.params (opSrc s) (opLen s))
    (h : s.queue.length = s.params.qDepth) : exec .queue s = reject .qfull s :=
  (if_neg hlen.length_check).trans <| (if_neg (not_not.mpr hin)).trans (if_pos h)

theorem exec_queue_of_readBytes {f : List Byte} (hlen : FrameLengthOk s) (hin : inRange s.params (opSrc s) (opLen s))
    (hroom : s.queue.length ≠ s.params.qDepth) (hread : s.ram.readBytes (opSrc s) (opLen s) = .ok f) :
    exec .queue s = .next (accept (countWord (queuedState f s).queue.length) 0#32 0#32 (queuedState f s)) :=
  (if_neg hlen.length_check).trans <| (if_neg (not_not.mpr hin)).trans <|
    (if_neg hroom).trans (withBytes_of_ok _ hread)

/-! ## What becomes of the frame read -/

/-- A transmission of duration 0 with nothing queued behind it is only counted. -/
theorem launch_of_duration_zero_nil {o : Origin} {f : List Byte} {r : Half} (h : duration s.params f r = 0)
    (hq : releaseHead o s.queue = []) :
    launch o f r s = { s with framesSent := s.framesSent + 1#32, queue := [], eng := .idle } := by
  rw [launch_of_duration_zero h, complete_of_nil hq, counted, hq]

theorem queuedState_of_active {f : List Byte} (h : s.eng ≠ .idle) :
    queuedState f s = { s with queue := s.queue ++ [⟨f, s.repeatCount⟩] } := by
  obtain ⟨e, q, hidle, -⟩ | ⟨-, hsame⟩ := startIfIdle_cases { s with queue := s.queue ++ [⟨f, s.repeatCount⟩] }
  · exact absurd hidle h
  · exact hsame

theorem queuedState_of_idle {f : List Byte} {e : QEntry} {q : List QEntry} (hidle : s.eng = .idle)
    (hq : s.queue ++ [⟨f, s.repeatCount⟩] = e :: q) :
    queuedState f s = launch .queued e.frame e.repeats { s with queue := e :: q } := by
  rw [queuedState, startIfIdle, hidle, hq]

theorem queuedState_of_idle_nil {f : List Byte} (hidle : s.eng = .idle) (hq : s.queue = []) :
    queuedState f s = launch .queued f s.repeatCount { s with queue := [⟨f, s.repeatCount⟩] } :=
  queuedState_of_idle hidle (congrArg (· ++ [⟨f, s.repeatCount⟩]) hq)

/-- A copy of duration 0 on an idle engine leaves the queue as soon as it enters it. -/
theorem queuedState_of_duration_zero {f : List Byte} (hidle : s.eng = .idle) (hq : s.queue = [])
    (h : duration s.params f s.repeatCount = 0) :
    queuedState f s = { s with framesSent := s.framesSent + 1#32 } :=
  calc queuedState f s
    _ = launch .queued f s.repeatCount { s with queue := [⟨f, s.repeatCount⟩] } := queuedState_of_idle_nil hidle hq
    _ = { s with framesSent := s.framesSent + 1#32, queue := [], eng := .idle } := launch_of_duration_zero_nil h rfl
    _ = { s with framesSent := s.framesSent + 1#32 } := by rw [← hq, ← hidle]

theorem queuedState_of_duration_pos {f : List Byte} (hidle : s.eng = .idle) (hq : s.queue = [])
    (h : 0 < duration s.params f s.repeatCount) :
    queuedState f s = { s with queue := [⟨f, s.repeatCount⟩], eng := .active .queued f s.repeatCount 0 } :=
  (queuedState_of_idle_nil hidle hq).trans (launch_of_duration_pos h)

end

end Sys2Proof.Machine

namespace Sys2Proof.Proofs

open Sys2Proof.Machine

/-- Settles O19: `exec_tx_of_readBytes` launches the bytes read; on an idle engine with nothing queued, a launch of
duration 0 leaves engine and queue as they were. -/
theorem txLaunchesAPrivateCopy : Obligations.TxLaunchesAPrivateCopy := by
  unfold Obligations.TxLaunchesAPrivateCopy
  refine ⟨by decide, fun s => ⟨exec_tx_of_bad_length, exec_tx_of_not_inRange, exec_tx_of_active,
    fun f hlen hin hidle hread => ?_⟩⟩
  have hexec := exec_tx_of_readBytes hlen hin hidle hread
  refine ⟨hexec, fun hpos => ?_, fun hq hzero => ?_⟩
  · rw [hexec, launch_of_duration_pos (s := accept 0#32 0#32 0#32 s) hpos]
    rfl
  · rw [hexec, launch_of_duration_zero_nil (o := .direct) (s := accept 0#32 0#32 0#32 s) hzero hq, ← hq, ← hidle]
    rfl

/-- Settles O20: `exec_queue_of_readBytes` appends the copy; the clauses of an idle engine with an empty queue are the
general launch of the head, where the head is the copy. -/
theorem queueAppendsAndStartsAnIdleEngine : Obligations.QueueAppendsAndStartsAnIdleEngine := by
  unfold Obligations.QueueAppendsAndStartsAnIdleEngine
  refine ⟨by decide, fun s => ⟨exec_queue_of_bad_length, exec_queue_of_not_inRange, exec_queue_of_full,
    fun f hlen hin hroom hread => ?_⟩⟩
  rw [exec_queue_of_readBytes hlen hin hroom hread]
  refine ⟨fun hactive => ?_, fun hidle hq hpos => ?_, fun hidle hq hzero => ?_, fun e q hidle hq => ?_⟩
  · rw [queuedState_of_active hactive, List.length_append]
    rfl
  · rw [queuedState_of_duration_pos hidle hq hpos]
    rfl
  · rw [queuedState_of_duration_zero hidle hq hzero, hq]
    rfl
  · rw [queuedState_of_idle hidle hq]
    rfl

end Sys2Proof.Proofs
end

section
/-! 60_exceptions.md R220, R224: a command that goes on was rejected with a code of its own and changed ERRCODE alone, or
was accepted and left ERRCODE 0. -/

namespace Sys2Proof.Machine

/-- The codes a command can be rejected with, in the order of its checks (R220, R223). -/
def raisedCodes : Instr → List RejectCode
  | .nop => []
  | .crc => [.range]
  | .crcCheck => [.length, .range]
  | .buildPing => [.range]
  | .buildMcu => [.range, .overlap]
  | .buildRaw => [.range, .overlap]
  | .buildData => [.length, .range, .overlap]
  | .compress => [.length, .range, .overlap]
  | .pack => [.length, .range, .overlap]
  | .tx => [.length, .range, .busy]
  | .queue => [.length, .range, .qfull]

/-- The two answers of a command whose checks raise the codes `l`. -/
def RejectedOrAccepted (l : List RejectCode) (s t : State) : Prop :=
  (∃ c ∈ l, t = setErr c.code s) ∨ t.errcode = 0#4

theorem buildFromPayload_rejectedOrAccepted {lead : List Byte} {s t : State}
    (h : buildFromPayload lead s = .next t) : RejectedOrAccepted [.range, .overlap] s t := by
  obtain ⟨-, rfl⟩ | ⟨-, -, -, rfl⟩ | ⟨-, -, -, _, -, rfl⟩ := buildFromPayload_cases h
  · exact .inl ⟨.range, by decide, rfl⟩
  · exact .inl ⟨.overlap, by decide, rfl⟩
  · exact .inr rfl

/-- An accepted command writes ERRCODE 0 last (`accept`); only TX launches after that, and a launch keeps ERRCODE. -/
theorem exec_rejectedOrAccepted {i : Instr} {s t : State} (h : exec i s = .next t) :
    RejectedOrAccepted (raisedCodes i) s t := by
  cases i with
  | nop =>
    obtain rfl := execNop_cases h
    exact .inr rfl
  | crc =>
    obtain ⟨-, rfl⟩ | ⟨-, _, -, rfl⟩ := execCrc_cases h
    · exact .inl ⟨.range, by decide, rfl⟩
    · exact .inr rfl
  | crcCheck =>
    obtain ⟨-, rfl⟩ | ⟨-, -, rfl⟩ | ⟨-, -, _, -, rfl⟩ := execCrcCheck_cases h
    · exact .inl ⟨.length, by decide, rfl⟩
    · exact .inl ⟨.range, by decide, rfl⟩
    · exact .inr rfl
  | buildPing =>
    obtain ⟨-, rfl⟩ | ⟨-, rfl⟩ := execBuildPing_cases h
    · exact .inl ⟨.range, by decide, rfl⟩
    · exact .inr rfl
  | buildMcu => exact buildFromPayload_rejectedOrAccepted h
  | buildRaw => exact buildFromPayload_rejectedOrAccepted h
  | buildData =>
    obtain ⟨-, rfl⟩ | ⟨-, -, rfl⟩ | ⟨-, -, -, -, rfl⟩ | ⟨-, -, -, -, _, -, rfl⟩ := execBuildData_cases h
    · exact .inl ⟨.length, by decide, rfl⟩
    · exact .inl ⟨.range, by decide, rfl⟩
    · exact .inl ⟨.overlap, by decide, rfl⟩
    · exact .inr rfl
  | compress =>
    obtain ⟨-, rfl⟩ | ⟨-, -, rfl⟩ | ⟨-, -, -, -, rfl⟩ | ⟨-, -, -, -, _, -, rfl⟩ := execCompress_cases h
    · exact .inl ⟨.length, by decide, rfl⟩
    · exact .inl ⟨.range, by decide, rfl⟩
    · exact .inl ⟨.overlap, by decide, rfl⟩
    · exact .inr rfl
  | pack =>
    obtain ⟨-, rfl⟩ | ⟨-, -, rfl⟩ | ⟨-, -, -, -, rfl⟩ | ⟨-, -, -, -, _, -, rfl⟩ := execPack_cases h
    · exact .inl ⟨.length, by decide, rfl⟩
    · exact .inl ⟨.range, by decide, rfl⟩
    · exact .inl ⟨.overlap, by decide, rfl⟩
    · exact .inr rfl
  | tx =>
    obtain ⟨-, rfl⟩ | ⟨-, -, rfl⟩ | ⟨-, -, -, rfl⟩ | ⟨-, -, -, _, -, rfl⟩ := execTx_cases h
    · exact .inl ⟨.length, by decide, rfl⟩
    · exact .inl ⟨.range, by decide, rfl⟩
    · exact .inl ⟨.busy, by decide, rfl⟩
    · exact .inr (launch_errcode ..)
  | queue =>
    obtain ⟨-, rfl⟩ | ⟨-, -, rfl⟩ | ⟨-, -, -, rfl⟩ | ⟨-, -, -, _, -, rfl⟩ := execQueue_cases h
    · exact .inl ⟨.length, by decide, rfl⟩
    · exact .inl ⟨.range, by decide, rfl⟩
    · exact .inl ⟨.qfull, by decide, rfl⟩
    · exact .inr rfl

/-- The same of every word: an illegal one is rejected with OPCODE (R73). -/
theorem cmdIssue_rejected_or_accepted {w : Word} {s t : State} (h : cmdIssue w s = .next t) :
    (∃ c : RejectCode, t = setErr c.code s) ∨ t.errcode = 0#4 := by
  obtain ⟨i, -, hexec⟩ | ⟨_, -, ht⟩ := cmdIssue_cases h
  · exact (exec_rejectedOrAccepted hexec).imp_left fun ⟨c, _, ht⟩ => ⟨c, ht⟩
  · exact .inl ⟨.opcode, ht⟩

end Sys2Proof.Machine

namespace Sys2Proof.Proofs

open Sys2Proof.Machine

/-- Settles O21: every accepted command leaves ERRCODE 0, so a nonzero ERRCODE is a rejection's
(`cmdIssue_rejected_or_accepted`), and `setErr` replaces ERRCODE alone. -/
theorem rejectionChangesOnlyErrcode : Obligations.RejectionChangesOnlyErrcode := by
  unfold Obligations.RejectionChangesOnlyErrcode
  intro w s t h hne
  obtain ⟨c, rfl⟩ | hzero := cmdIssue_rejected_or_accepted h
  · rfl
  · exact absurd hzero hne

end Sys2Proof.Proofs
end

section
/-! 30_encoding.md R70, R72, R73: the decoder as the inverse of the encoder. -/

namespace Sys2Proof.Machine

/-- A word is its RSVD field over its OPCODE (R70). -/
theorem commandRsvd_append_commandOpcode (w : Word) : commandRsvd w ++ commandOpcode w = w :=
  BitVec.extractLsb'_append_extractLsb'

theorem commandRsvd_encode (i : Instr) : commandRsvd (encode i) = 0#24 := by
  cases i <;> decide

theorem commandOpcode_encode (i : Instr) : commandOpcode (encode i) = opcode i := by
  cases i <;> decide

theorem decode_eq_ok_iff_eq_encode {w : Word} {i : Instr} : decode w = .ok i ↔ w = encode i := by
  rw [decode_eq_ok_iff]
  constructor
  · rintro ⟨hrsvd, hop⟩
    rw [encode, hop, ← hrsvd, commandRsvd_append_commandOpcode]
  · rintro rfl
    exact ⟨commandRsvd_encode i, (commandOpcode_encode i).symm⟩

/-- The decoder refuses exactly the words that are not legal (R73). -/
theorem commandWordOk_eq_false_iff {w : Word} : commandWordOk w = false ↔ ∃ e, decode w = .error e := by
  rw [decode_eq_error_iff, commandWordOk, Bool.and_eq_false_iff, beq_eq_false_iff_ne, List.contains_eq_mem,
    decide_eq_false_iff_not]
  rfl

end Sys2Proof.Machine

namespace Sys2Proof.Proofs

open Sys2Proof.Machine

/-- Settles O1: the decoder evaluated on the words of the table. -/
theorem commandWordsDecodeAsTabled : Obligations.CommandWordsDecodeAsTabled := by
  unfold Obligations.CommandWordsDecodeAsTabled
  decide

/-- Settles O2: the two fields of a word determine it, and `encode` fixes both. -/
theorem decodeIsExactlyTheEncodedWord : Obligations.DecodeIsExactlyTheEncodedWord := by
  unfold Obligations.DecodeIsExactlyTheEncodedWord
  exact fun _ _ => decode_eq_ok_iff_eq_encode

end Sys2Proof.Proofs
end

section
/-! 40_command_common.md R91, R92, R95, R98: what a command that goes on has done, in one case per kind of effect, and
what each kind leaves unchanged. -/

namespace Sys2Proof.Machine

/-! ## The effects of the commands -/

/-- The length of the body that a BUILD command frames; no other command builds a frame. -/
def bodyLength (s : State) : Instr → Option Nat
  | .buildPing => some 32
  | .buildMcu => some (10 + opLen s)
  | .buildRaw => some (6 + opLen s)
  | .buildData => some (12 + chunkCount (opLen s) (opIndex s))
  | _ => none

/-- What an accepted COMPRESS of the samples `l` leaves. -/
def compressed (l : List Byte) (s : State) : State :=
  accept (countWord (compressedStream s.params l).length) (countWord (rle s.params l).length)
    (if (rle s.params l).length < opLen s then 1#32 else 0#32) (storeBytes (opDst s) (compressedStream s.params l) s)

/-- What an accepted QUEUE of the frame `f` leaves. -/
def queueAccepted (f : List Byte) (s : State) : State :=
  accept (countWord (queuedState f s).queue.length) 0#32 0#32 (queuedState f s)

/-- The effect of a command that goes on: a rejection, or what the command does when accepted, with what its checks have
established. -/
inductive CommandEffect (s : State) : Instr → State → Prop
  | rejected {i : Instr} (c : RejectCode) : CommandEffect s i (setErr c.code s)
  | nop : CommandEffect s .nop (setErr 0#4 s)
  | crc (r0 : Word) : CommandEffect s .crc (accept r0 0#32 0#32 s)
  | checked (f : List Byte) : CommandEffect s .crcCheck (crcChecked f s)
  | framed {i : Instr} {body : List Byte} {r1 r2 : Word} (hbody : bodyLength s i = some body.length)
      (hfits : inRange s.params (opDst s) (frameLen body.length (frmPp16 s)))
      (hres : i ≠ .buildData → r1 = 0#32 ∧ r2 = 0#32) : CommandEffect s i (frameStored body r1 r2 s)
  | compressed {l : List Byte} (hread : s.ram.readBytes (opSrc s) (opLen s) = .ok l) (hlen : opLen s % 8 = 0)
      (hfits : inRange s.params (opDst s) (opLen s)) : CommandEffect s .compress (compressed l s)
  | packed {l : List Byte} (hread : s.ram.readBytes (opSrc s) (opLen s) = .ok l)
      (hfits : inRange s.params (opDst s) (opLen s / 8)) :
      CommandEffect s .pack (accept (countWord (opLen s / 8)) 0#32 0#32 (storeBytes (opDst s) (packSamples l) s))
  | launched {f : List Byte} (hframe : frameOk s.params f) (hidle : s.eng = .idle) :
      CommandEffect s .tx (launch .direct f s.repeatCount (accept 0#32 0#32 0#32 s))
  | queued {f : List Byte} (hframe : frameOk s.params f) (hroom : s.queue.length ≠ s.params.qDepth) :
      CommandEffect s .queue (queueAccepted f s)

theorem RejectCode.code_ne_zero (c : RejectCode) : c.code ≠ 0#4 := by cases c <;> decide

/-- The LENGTH check of TX and QUEUE makes the bytes read a legal frame. -/
theorem frameOk_of_readBytes {s : State} {f : List Byte} (hlen : ¬ (opLen s = 0 ∨ s.params.maxFrame < opLen s))
    (hread : s.ram.readBytes (opSrc s) (opLen s) = .ok f) : frameOk s.params f := by
  rw [frameOk, Memory.readBytes_length hread]
  omega

/-- BUILD_MCU and BUILD_RAW frame their lead and the payload. -/
theorem buildFromPayload_effect {i : Instr} {lead : List Byte} {s t : State} (h : buildFromPayload lead s = .next t)
    (hbody : bodyLength s i = some (lead.length + opLen s)) : CommandEffect s i t := by
  obtain ⟨-, rfl⟩ | ⟨-, -, -, rfl⟩ | ⟨-, hfits, -, payload, hread, rfl⟩ := buildFromPayload_cases h
  · exact .rejected .range
  · exact .rejected .overlap
  · have hlen : (lead ++ payload).length = lead.length + opLen s := by
      rw [List.length_append, Memory.readBytes_length hread]
    exact .framed (hlen ▸ hbody) (hlen ▸ hfits) fun _ => ⟨rfl, rfl⟩

theorem execBuildData_effect {s t : State} (h : execBuildData s = .next t) : CommandEffect s .buildData t := by
  obtain ⟨-, rfl⟩ | ⟨-, -, rfl⟩ | ⟨-, -, -, -, rfl⟩ | ⟨-, -, hfits, -, chunk, hread, rfl⟩ := execBuildData_cases h
  · exact .rejected .length
  · exact .rejected .range
  · exact .rejected .overlap
  · have hlen : (mcuLead s ++ halfBytes s.index ++ chunk).length = 12 + chunkCount (opLen s) (opIndex s) := by
      rw [List.length_append, Memory.readBytes_length hread]
      rfl
    exact .framed (hlen ▸ rfl) (hlen ▸ hfits) fun hne => absurd rfl hne

theorem exec_effect {i : Instr} {s t : State} (h : exec i s = .next t) : CommandEffect s i t := by
  cases i with
  | nop =>
    obtain rfl := execNop_cases h
    exact .nop
  | crc =>
    obtain ⟨-, rfl⟩ | ⟨-, l, -, rfl⟩ := execCrc_cases h
    · exact .rejected .range
    · exact .crc _
  | crcCheck =>
    obtain ⟨-, rfl⟩ | ⟨-, -, rfl⟩ | ⟨-, -, f, -, rfl⟩ := execCrcCheck_cases h
    · exact .rejected .length
    · exact .rejected .range
    · exact .checked f
  | buildPing =>
    obtain ⟨-, rfl⟩ | ⟨hfits, rfl⟩ := execBuildPing_cases h
    · exact .rejected .range
    · exact .framed (pingBody_length s ▸ rfl) (pingBody_length s ▸ hfits) fun _ => ⟨rfl, rfl⟩
  | buildMcu => exact buildFromPayload_effect h rfl
  | buildRaw => exact buildFromPayload_effect h rfl
  | buildData => exact execBuildData_effect h
  | compress =>
    obtain ⟨-, rfl⟩ | ⟨-, -, rfl⟩ | ⟨-, -, -, -, rfl⟩ | ⟨hlen, -, hfits, -, l, hread, rfl⟩ := execCompress_cases h
    · exact .rejected .length
    · exact .rejected .range
    · exact .rejected .overlap
    · exact .compressed hread (by omega) hfits
  | pack =>
    obtain ⟨-, rfl⟩ | ⟨-, -, rfl⟩ | ⟨-, -, -, -, rfl⟩ | ⟨-, -, hfits, -, l, hread, rfl⟩ := execPack_cases h
    · exact .rejected .length
    · exact .rejected .range
    · exact .rejected .overlap
    · exact .packed hread hfits
  | tx =>
    obtain ⟨-, rfl⟩ | ⟨-, -, rfl⟩ | ⟨-, -, -, rfl⟩ | ⟨hlen, -, hidle, f, hread, rfl⟩ := execTx_cases h
    · exact .rejected .length
    · exact .rejected .range
    · exact .rejected .busy
    · exact .launched (frameOk_of_readBytes hlen hread) hidle
  | queue =>
    obtain ⟨-, rfl⟩ | ⟨-, -, rfl⟩ | ⟨-, -, -, rfl⟩ | ⟨hlen, -, hroom, f, hread, rfl⟩ := execQueue_cases h
    · exact .rejected .length
    · exact .rejected .range
    · exact .rejected .qfull
    · exact .queued (frameOk_of_readBytes hlen hread) hroom

/-! ## What every command leaves unchanged -/

/-- What no command writes: the operand registers (10_state.md R36), the parameters, and the host's side of the edge. -/
structure CommandFrame (s t : State) : Prop where
  src : t.src = s.src
  len : t.len = s.len
  dst : t.dst = s.dst
  plid : t.plid = s.plid
  frm : t.frm = s.frm
  repeatCount : t.repeatCount = s.repeatCount
  index : t.index = s.index
  params : t.params = s.params
  rstIn : t.rstIn = s.rstIn
  host : t.host = s.host
  resp : t.resp = s.resp

section
variable {s t : State} {i : Instr}

theorem CommandEffect.frame (h : CommandEffect s i t) : CommandFrame s t := by
  cases h with
  | launched => constructor <;> simp
  | queued => constructor <;> simp [queueAccepted, queuedState]
  | _ => constructor <;> rfl

/-- Only an accepted CRC_CHECK writes MATCH (10_state.md R25). -/
theorem CommandEffect.matchBit (h : CommandEffect s i t) (hi : i ≠ .crcCheck ∨ t.errcode ≠ 0#4) :
    t.matchBit = s.matchBit := by
  cases h with
  | checked => exact absurd rfl (hi.resolve_right fun hne => hne rfl)
  | launched => exact launch_matchBit ..
  | queued => exact startIfIdle_matchBit _
  | _ => rfl

/-- Only TX and QUEUE touch the engine, the queue and FRAMES_SENT. -/
theorem CommandEffect.engine (h : CommandEffect s i t) (htx : i ≠ .tx) (hqueue : i ≠ .queue) :
    t.eng = s.eng ∧ t.queue = s.queue ∧ t.framesSent = s.framesSent := by
  cases h with
  | launched => exact absurd rfl htx
  | queued => exact absurd rfl hqueue
  | _ => exact ⟨rfl, rfl, rfl⟩

/-- A rejection and NOP keep the results (40_command_common.md R95). -/
theorem CommandEffect.results (h : CommandEffect s i t) (hi : i = .nop ∨ t.errcode ≠ 0#4) :
    t.res0 = s.res0 ∧ t.res1 = s.res1 ∧ t.res2 = s.res2 := by
  cases h with
  | rejected | nop => exact ⟨rfl, rfl, rfl⟩
  | framed hbody =>
    obtain rfl := hi.resolve_right fun hne => hne rfl
    cases hbody
  | launched => exact absurd (launch_errcode ..) (hi.resolve_left nofun)
  | _ => exact absurd rfl (hi.resolve_left nofun)

/-! ## Stored regions -/

/-- How many bytes an accepted command stores at DST. -/
def StoresCount (s : State) (n : Nat) : Instr → Prop
  | .buildPing => n = frameLen 32 (frmPp16 s)
  | .buildMcu => n = frameLen (10 + opLen s) (frmPp16 s)
  | .buildRaw => n = frameLen (6 + opLen s) (frmPp16 s)
  | .buildData => n = frameLen (12 + chunkCount (opLen s) (opIndex s)) (frmPp16 s)
  | .compress => ∀ l, s.ram.readBytes (opSrc s) (opLen s) = .ok l →
      n = (if (rle s.params l).length < opLen s then roundUp8 (rle s.params l).length else opLen s)
  | .pack => n = opLen s / 8
  | _ => False

/-- A BUILD command stores its body framed. -/
theorem StoresCount.of_bodyLength {n m : Nat} (h : StoresCount s n i) (hbody : bodyLength s i = some m) :
    n = frameLen m (frmPp16 s) := by
  cases i <;> cases hbody <;> exact h

theorem compressedStream_length {l : List Byte} (hread : s.ram.readBytes (opSrc s) (opLen s) = .ok l) :
    (compressedStream s.params l).length =
      if (rle s.params l).length < opLen s then roundUp8 (rle s.params l).length else opLen s := by
  rw [← Memory.readBytes_length hread]
  split
  · exact compressedStream_length_of_lt ‹_›
  · rw [compressedStream, if_neg ‹_›]

/-- The used size of a legal COMPRESS is at most that of the samples (42_compressor.md R117 item 4). -/
theorem compressedStream_length_le {l : List Byte} (hread : s.ram.readBytes (opSrc s) (opLen s) = .ok l)
    (hlen : opLen s % 8 = 0) : (compressedStream s.params l).length ≤ opLen s := by
  rw [compressedStream_length hread]
  split
  · exact roundUp8_le ‹_› hlen
  · rfl

/-- A command leaves RAM as it is, or is accepted and has stored as many bytes at DST as its rule says, inside RAM. -/
theorem CommandEffect.ram (h : CommandEffect s i t) :
    t.ram = s.ram ∨ t.errcode = 0#4 ∧ ∃ l : List Byte, t.ram = s.ram.writeBytes (opDst s) l ∧
      opDst s + l.length ≤ s.params.memSize ∧ ∀ n, StoresCount s n i → n = l.length := by
  cases h with
  | @framed i body r1 r2 hbody hfits =>
    refine .inr ⟨rfl, _, rfl, ?_, fun n hn => ?_⟩ <;> rw [terminate_length]
    · exact hfits
    · exact hn.of_bodyLength hbody
  | compressed hread hlen hfits =>
    refine .inr ⟨rfl, _, rfl, ?_, fun n hn => ?_⟩
    · exact (Nat.add_le_add_left (compressedStream_length_le hread hlen) _).trans hfits
    · rw [compressedStream_length hread]
      exact hn _ hread
  | packed hread hfits =>
    refine .inr ⟨rfl, _, rfl, ?_, fun n hn => ?_⟩ <;> rw [packSamples_length, Memory.readBytes_length hread]
    · exact hfits
    · exact hn
  | launched => exact .inl (launch_ram ..)
  | queued => exact .inl (startIfIdle_ram _)
  | _ => exact .inl rfl

/-- Commands that check or transmit store nothing. -/
theorem CommandEffect.ram_eq (h : CommandEffect s i t)
    (hi : i = .nop ∨ i = .crc ∨ i = .crcCheck ∨ i = .tx ∨ i = .queue) : t.ram = s.ram := by
  cases h with
  | framed hbody => obtain rfl | rfl | rfl | rfl | rfl := hi <;> cases hbody
  | compressed | packed => simp at hi
  | launched => exact launch_ram ..
  | queued => exact startIfIdle_ram _
  | _ => rfl

end

/-! ## Command words -/

/-- A word that goes on is a command's word and has that command's effect, or is illegal and rejected with OPCODE. -/
theorem cmdIssue_effect {w : Word} {s t : State} (h : cmdIssue w s = .next t) :
    (∃ i, w = encode i ∧ CommandEffect s i t) ∨ (commandWordOk w = false ∧ t = setErr RejectCode.opcode.code s) := by
  obtain ⟨i, hdecode, hexec⟩ | ⟨e, hdecode, ht⟩ := cmdIssue_cases h
  · exact .inl ⟨i, decode_eq_ok_iff_eq_encode.mp hdecode, exec_effect hexec⟩
  · exact .inr ⟨commandWordOk_eq_false_iff.mpr ⟨e, hdecode⟩, ht⟩

theorem encode_injective {i j : Instr} (h : encode i = encode j) : i = j :=
  Except.ok.inj <| (decode_eq_ok_iff_eq_encode.mpr rfl).symm.trans (decode_eq_ok_iff_eq_encode.mpr h)

theorem cmdIssue_frame {w : Word} {s t : State} (h : cmdIssue w s = .next t) : CommandFrame s t := by
  obtain ⟨i, -, heffect⟩ | ⟨-, rfl⟩ := cmdIssue_effect h
  · exact heffect.frame
  · constructor <;> rfl

end Sys2Proof.Machine
end

section
/-! 10_state.md R24, R25, R36, R37, 40_command_common.md R91, R95, 60_exceptions.md R220: the rules about every command,
and the frame of each group of commands. -/

namespace Sys2Proof.Machine

/-- An accepted command with one result or none writes 0 to the others (40_command_common.md R95). -/
theorem CommandEffect.unused_results {i : Instr} {s t : State} (h : CommandEffect s i t) (ht : t.errcode = 0#4)
    (hi : i ∈ [Instr.crc, .buildPing, .buildMcu, .buildRaw, .pack, .tx, .queue]) : t.res1 = 0#32 ∧ t.res2 = 0#32 := by
  cases h with
  | rejected c => exact absurd ht c.code_ne_zero
  | nop | checked | compressed => simp at hi
  | framed _ _ hres => exact hres (by rintro rfl; simp at hi)
  | crc | packed | queued => exact ⟨rfl, rfl⟩
  | launched => exact ⟨launch_res1 .., launch_res2 ..⟩

/-- TX has no result at all (44_ir_engine.md R190). -/
theorem CommandEffect.tx_res0 {s t : State} (h : CommandEffect s .tx t) (ht : t.errcode = 0#4) : t.res0 = 0#32 := by
  cases h with
  | rejected c => exact absurd ht c.code_ne_zero
  | framed hbody => cases hbody
  | launched => exact launch_res0 ..

theorem RejectedOrAccepted.errcode_mem {l : List RejectCode} {s t : State} (h : RejectedOrAccepted l s t) :
    t.errcode ∈ 0#4 :: l.map RejectCode.code := by
  obtain ⟨c, hc, rfl⟩ | hzero := h
  · exact List.mem_cons_of_mem _ (List.mem_map_of_mem hc)
  · exact hzero ▸ List.mem_cons_self

/-- No command leaves the code of an illegal word. -/
theorem exec_errcode_ne_opcode {i : Instr} {s t : State} (h : exec i s = .next t) : t.errcode ≠ 1#4 := by
  have hcodes : 1#4 ∉ 0#4 :: (raisedCodes i).map RejectCode.code := by cases i <;> decide
  exact fun hone => hcodes (hone ▸ (exec_rejectedOrAccepted h).errcode_mem)

end Sys2Proof.Machine

namespace Sys2Proof.Proofs

open Sys2Proof.Machine

/-- Settles O22: each command's codes are `raisedCodes`; OPCODE is none of them, so it marks the illegal words. -/
theorem eachCommandRaisesItsOwnCodes : Obligations.EachCommandRaisesItsOwnCodes := by
  unfold Obligations.EachCommandRaisesItsOwnCodes
  refine ⟨fun i s t h => ?_, fun w s t h => ?_⟩
  · have hmem := (exec_rejectedOrAccepted h).errcode_mem
    cases i <;> exact hmem
  · obtain ⟨i, hdecode, hexec⟩ | ⟨e, hdecode, rfl⟩ := cmdIssue_cases h
    · have hlegal : ¬ commandWordOk w = false := by simp [commandWordOk_eq_false_iff, hdecode]
      exact iff_of_false (exec_errcode_ne_opcode hexec) hlegal
    · exact iff_of_true rfl (commandWordOk_eq_false_iff.mpr ⟨e, hdecode⟩)

/-- Settles O23: none of these fields is written by any effect (`CommandFrame`). -/
theorem commandsKeepTheOperandRegisters : Obligations.CommandsKeepTheOperandRegisters := by
  unfold Obligations.CommandsKeepTheOperandRegisters
  intro w s t h
  have hframe := cmdIssue_frame h
  exact ⟨hframe.src, hframe.len, hframe.dst, hframe.plid, hframe.frm, hframe.repeatCount, hframe.index, hframe.params,
    hframe.rstIn, hframe.host, hframe.resp⟩

/-- Settles O24: `CommandEffect.matchBit`, each command having one word. -/
theorem onlyAcceptedCrcCheckWritesMatch : Obligations.OnlyAcceptedCrcCheckWritesMatch := by
  unfold Obligations.OnlyAcceptedCrcCheckWritesMatch
  intro w s t h hw
  obtain ⟨i, rfl, heffect⟩ | ⟨-, rfl⟩ := cmdIssue_effect h
  · exact heffect.matchBit (hw.imp_left fun hne hi => hne (congrArg encode hi))
  · rfl

/-- Settles O25: `CommandEffect.results` and `CommandEffect.unused_results`; an illegal word is rejected. -/
theorem resultRegistersConvention : Obligations.ResultRegistersConvention := by
  unfold Obligations.ResultRegistersConvention
  intro w s t h
  obtain ⟨i, rfl, heffect⟩ | ⟨-, rfl⟩ := cmdIssue_effect h
  · refine ⟨fun hw => heffect.results (hw.imp_left encode_injective), fun ht ⟨j, hj, hij⟩ => ?_, fun ht htx => ?_⟩
    · exact heffect.unused_results ht (encode_injective hij ▸ hj)
    · obtain rfl := encode_injective htx
      exact heffect.tx_res0 ht
  · exact ⟨fun _ => ⟨rfl, rfl, rfl⟩, nofun, nofun⟩

/-- Settles O27: the frame of every command, with RAM, the engine and MATCH kept as by their groups. -/
theorem checkingCommandsFrame : Obligations.CheckingCommandsFrame := by
  unfold Obligations.CheckingCommandsFrame
  intro i s t hi h
  have heffect := exec_effect h
  have hframe := heffect.frame
  have hram : t.ram = s.ram := heffect.ram_eq (by tauto)
  obtain ⟨heng, hqueue, hsent⟩ : t.eng = s.eng ∧ t.queue = s.queue ∧ t.framesSent = s.framesSent := by
    obtain rfl | rfl | rfl := hi <;> exact heffect.engine nofun nofun
  exact ⟨fun x => by rw [hram], hram, hframe.src, hframe.len, hframe.dst, hframe.plid, hframe.frm, hframe.repeatCount,
    hframe.index, hsent, heng, hqueue, hframe.params, hframe.rstIn, hframe.host, hframe.resp,
    fun hne => heffect.matchBit (.inl hne), fun hnop => heffect.results (.inl hnop)⟩

/-- Settles O28: what is stored lies in the `n` bytes from DST on (`CommandEffect.ram`); the rest is the frame of every
command and of those that do not transmit. -/
theorem storingCommandsFrame : Obligations.StoringCommandsFrame := by
  unfold Obligations.StoringCommandsFrame
  intro i s t n h hn
  have hcount : StoresCount s n i := by cases i <;> exact hn
  have heffect := exec_effect h
  have hframe := heffect.frame
  have hmatch : t.matchBit = s.matchBit := heffect.matchBit (.inl (by rintro rfl; exact hcount))
  obtain ⟨heng, hqueue, hsent⟩ := heffect.engine (by rintro rfl; exact hcount) (by rintro rfl; exact hcount)
  obtain ⟨hout, hrejected⟩ : (∀ x, (x < opDst s ∨ opDst s + n ≤ x) → t.ram.read x = s.ram.read x) ∧
      (t.errcode ≠ 0#4 → ∀ x, t.ram.read x = s.ram.read x) := by
    obtain hram | ⟨hzero, l, hram, -, hlength⟩ := heffect.ram
    · simp [hram]
    · obtain rfl := hlength n hcount
      exact ⟨fun x hx => hram ▸ Memory.read_writeBytes_outside _ _ _ hx, fun hne => absurd hzero hne⟩
  exact ⟨hout, hrejected, hframe.src, hframe.len, hframe.dst, hframe.plid, hframe.frm, hframe.repeatCount,
    hframe.index, hsent, hmatch, heng, hqueue, hframe.params, hframe.rstIn, hframe.host, hframe.resp⟩

/-- Settles O29: neither command stores or writes MATCH. -/
theorem transmitCommandsFrame : Obligations.TransmitCommandsFrame := by
  unfold Obligations.TransmitCommandsFrame
  intro i s t hi h
  have heffect := exec_effect h
  have hframe := heffect.frame
  have hram : t.ram = s.ram := heffect.ram_eq (by tauto)
  have hmatch : t.matchBit = s.matchBit := heffect.matchBit (.inl (by rintro rfl; simp at hi))
  exact ⟨fun x => by rw [hram], hram, hframe.src, hframe.len, hframe.dst, hframe.plid, hframe.frm, hframe.repeatCount,
    hframe.index, hmatch, hframe.params, hframe.rstIn, hframe.host, hframe.resp⟩

end Sys2Proof.Proofs
end

section
/-! 44_ir_engine.md R189, 70_reset_and_hazards.md R250, 20_memory.md R55, R56: one clock edge. An edge with `rst` low is
the Tick and then the command that a CMD write issues, or a transaction that leaves the engine, STATUS and the results
alone. -/

namespace Sys2Proof.Machine

/-! ## The presented slot -/

section
variable {u : State} {addr : BusAddr} {size : AccessSize} {q : List HostSlot}

theorem hostEdge_of_nil (h : u.host = []) : hostEdge u = .next { u with resp := none } := by
  simp only [hostEdge, h]

theorem hostEdge_of_idle (h : u.host = .idle :: q) : hostEdge u = .next { u with host := q, resp := none } := by
  simp only [hostEdge, h]

theorem hostEdge_of_read_ok {v : Word} (h : u.host = .read addr size :: q) (hread : memRead u addr size = .ok v) :
    hostEdge u = .next { u with host := q, resp := some (.readOk v) } := by
  simp only [hostEdge, h, hread]

theorem hostEdge_of_read_error {e : Fault} (h : u.host = .read addr size :: q)
    (hread : memRead u addr size = .error e) : hostEdge u = .fault e := by
  simp only [hostEdge, h, hread]

theorem hostEdge_of_write {v : Word} (h : u.host = .write addr size v :: q) :
    hostEdge u = memWrite addr size v { u with host := q, resp := some .writeOk } := by
  simp only [hostEdge, h]

/-- What a read answers does not depend on the levels of `rst` to come. -/
theorem memRead_setRst (s : State) (r : List Bool) (addr : BusAddr) (size : AccessSize) :
    memRead { s with rstIn := r } addr size = memRead s addr size := by
  unfold memRead
  dsimp only
  split
  · rfl
  · rename_i reg _
    cases reg <;> rfl
  · rfl

end

section
variable {s : State} {addr : BusAddr} {size : AccessSize} {q : List HostSlot} (hrst : s.rstIn.head? ≠ some true)
include hrst

theorem step_of_nil (h : s.host = []) :
    step s = .next { tick { s with rstIn := s.rstIn.tail } with resp := none } :=
  (step_rst_low hrst).trans (hostEdge_of_nil ((tick_host _).trans h))

theorem step_of_idle (h : s.host = .idle :: q) :
    step s = .next { tick { s with rstIn := s.rstIn.tail } with host := q, resp := none } :=
  (step_rst_low hrst).trans (hostEdge_of_idle ((tick_host _).trans h))

theorem step_of_write {v : Word} (h : s.host = .write addr size v :: q) :
    step s = memWrite addr size v
      { tick { s with rstIn := s.rstIn.tail } with host := q, resp := some .writeOk } :=
  (step_rst_low hrst).trans (hostEdge_of_write ((tick_host _).trans h))

/-- A write of a word to CMD issues it on the ticked state. -/
theorem step_of_cmd_write {w : Word} (h : s.host = .write 0x08#17 .word w :: q) :
    step s = cmdIssue w { tick { s with rstIn := s.rstIn.tail } with host := q, resp := some .writeOk } :=
  (step_of_write hrst h).trans (memWrite_offset .cmd w _)

theorem step_of_read_ok {v : Word} (h : s.host = .read addr size :: q) (hread : memRead (tick s) addr size = .ok v) :
    step s = .next { tick s with rstIn := s.rstIn.tail, host := q, resp := some (.readOk v) } := by
  rw [step_rst_low hrst, tick_setRst]
  exact hostEdge_of_read_ok ((tick_host s).trans h) ((memRead_setRst ..).trans hread)

theorem step_of_read_error {e : Fault} (h : s.host = .read addr size :: q)
    (hread : memRead (tick s) addr size = .error e) : step s = .fault e := by
  rw [step_rst_low hrst, tick_setRst]
  exact hostEdge_of_read_error ((tick_host s).trans h) ((memRead_setRst ..).trans hread)

end

/-! ## What an edge without a command can change -/

/-- `t` is `u` but for what a transaction other than a command may change: the operand registers, RAM (by bytes stored
inside it), and the host's side. -/
structure TransactionFrame (u t : State) : Prop where
  params : t.params = u.params
  eng : t.eng = u.eng
  queue : t.queue = u.queue
  framesSent : t.framesSent = u.framesSent
  errcode : t.errcode = u.errcode
  matchBit : t.matchBit = u.matchBit
  res0 : t.res0 = u.res0
  res1 : t.res1 = u.res1
  res2 : t.res2 = u.res2
  ram : t.ram = u.ram ∨ ∃ a l, t.ram = u.ram.writeBytes a l ∧ a + l.length ≤ u.params.memSize

/-- The register that an address reaches is the one at that offset. -/
theorem eq_offset_of_busTarget {p : Params} {addr : BusAddr} {size : AccessSize} {r : Reg}
    (h : busTarget p addr size = .ok (.reg r)) : addr = r.offset := by
  have hwindow : ∀ a < 0x40, a % 4 = 0 →
      ∀ r ∈ regAt (BitVec.ofNat 17 a &&& 0x1FFFC#17), r.offset = BitVec.ofNat 17 a := by
    decide
  obtain ⟨_, -, rfl, hlt, halign⟩ | ⟨_, hram, -⟩ := busTarget_cases h
  · rw [busTarget, if_pos hlt] at h
    split at h
    · cases h
    · rename_i r' hreg
      rw [if_pos ⟨rfl, halign⟩] at h
      cases h
      simpa using (hwindow addr.toNat hlt halign r (by simpa using hreg)).symm
  · cases hram

/-- The host's side may change. -/
theorem TransactionFrame.hostSide (u : State) (r : List Bool) (q : List HostSlot) (x : Option Response) :
    TransactionFrame u { u with rstIn := r, host := q, resp := x } :=
  ⟨rfl, rfl, rfl, rfl, rfl, rfl, rfl, rfl, rfl, .inl rfl⟩

/-- A register write other than a command changes an operand register at most. -/
theorem writeReg_frame {r : Reg} {v : Word} {s t : State} (h : writeReg r v s = .next t) (hr : r ≠ .cmd) :
    TransactionFrame s t := by
  cases r with
  | cmd => exact absurd rfl hr
  | _ =>
    cases h
    exact ⟨rfl, rfl, rfl, rfl, rfl, rfl, rfl, rfl, rfl, .inl rfl⟩

/-- A write at CMD's offset issues a command; every other write is within the frame. -/
theorem memWrite_frame {addr : BusAddr} {size : AccessSize} {v : Word} {s t : State}
    (h : memWrite addr size v s = .next t) : (addr = 0x08#17 ∧ cmdIssue v s = .next t) ∨ TransactionFrame s t := by
  obtain ⟨r, htarget, hwrite⟩ | ⟨a, -, hfits, rfl⟩ := memWrite_cases h
  · by_cases hr : r = .cmd
    · subst hr
      exact .inl ⟨eq_offset_of_busTarget htarget, hwrite⟩
    · exact .inr (writeReg_frame hwrite hr)
  · exact .inr ⟨rfl, rfl, rfl, rfl, rfl, rfl, rfl, rfl, rfl, .inr ⟨a, _, rfl, (wordBytes_length ..).symm ▸ hfits⟩⟩

/-- An edge with `rst` low issues a command on the ticked state, or leaves the ticked state but for what a transaction
may change. -/
theorem step_low_cases {s t : State} (hrst : s.rstIn.head? ≠ some true) (h : step s = .next t) :
    (∃ size w, s.host.head? = some (.write 0x08#17 size w) ∧ cmdIssue w s.atCommand = .next t) ∨
      TransactionFrame (tick s) t := by
  rw [step_rst_low hrst] at h
  obtain ⟨-, rfl⟩ | ⟨addr, size, v, -, -, rfl⟩ | ⟨addr, size, v, hslot, hwrite⟩ := hostEdge_cases h
  · rw [tick_setRst]
    exact .inr (.hostSide ..)
  · rw [tick_setRst]
    exact .inr (.hostSide ..)
  · rw [tick_host] at hslot hwrite
    obtain ⟨rfl, hissue⟩ | hframe := memWrite_frame hwrite
    · exact .inl ⟨size, v, hslot, hissue⟩
    · rw [tick_setRst] at hframe
      exact .inr { hframe with }

/-- The state in which a command runs is the ticked state but for the host's side. -/
theorem atCommand_frame (s : State) : TransactionFrame (tick s) s.atCommand := by
  simp only [State.atCommand, tick_setRst]
  exact .hostSide ..

/-- Without a CMD write the edge is within the frame. -/
theorem step_frame_of_no_command {s t : State} (hrst : s.rstIn.head? ≠ some true) (h : step s = .next t)
    (hslot : ∀ size v, s.host.head? ≠ some (.write 0x08#17 size v)) : TransactionFrame (tick s) t := by
  obtain ⟨size, w, hcmd, -⟩ | hframe := step_low_cases hrst h
  · exact absurd hcmd (hslot size w)
  · exact hframe

/-! ## What no command does -/

/-- While the engine is active, TX is rejected and QUEUE only appends: no command touches the transmission. -/
theorem CommandEffect.eng_of_active {s t : State} {i : Instr} (h : CommandEffect s i t) (hactive : s.eng ≠ .idle) :
    t.eng = s.eng := by
  cases h with
  | launched _ hidle => exact absurd hidle hactive
  | queued => rw [queueAccepted, queuedState_of_active hactive]; rfl
  | _ => rfl

theorem cmdIssue_eng_of_active {w : Word} {s t : State} (h : cmdIssue w s = .next t) (hactive : s.eng ≠ .idle) :
    t.eng = s.eng := by
  obtain ⟨i, -, heffect⟩ | ⟨-, rfl⟩ := cmdIssue_effect h
  · exact heffect.eng_of_active hactive
  · rfl

/-- A result that is no refusal. -/
def NotRefused (r : Result) : Prop := ∀ x, r ≠ .refused x

theorem NotRefused.check {P : Prop} [Decidable P] {c : RejectCode} {s : State} {r : Result} (h : NotRefused r) :
    NotRefused (if P then reject c s else r) := by
  split
  · nofun
  · exact h

theorem NotRefused.withBytes {s : State} {a n : Nat} {k : List Byte → Result} (h : ∀ l, NotRefused (k l)) :
    NotRefused (withBytes s a n k) := by
  unfold Machine.withBytes
  split
  · exact h _
  · nofun

theorem exec_notRefused (i : Instr) (s : State) : NotRefused (exec i s) := by
  cases i with
  | nop => nofun
  | crc => exact .check (.withBytes nofun)
  | crcCheck => exact .check (.check (.withBytes nofun))
  | buildPing => exact .check nofun
  | buildMcu | buildRaw => exact .check (.check (.withBytes nofun))
  | buildData | pack | tx | queue => exact .check (.check (.check (.withBytes nofun)))
  | compress =>
    refine .check (.check (.check (.withBytes fun l => ?_)))
    dsimp only
    split <;> nofun

theorem memWrite_notRefused (addr : BusAddr) (size : AccessSize) (v : Word) (s : State) :
    NotRefused (memWrite addr size v s) := by
  unfold memWrite
  split
  · nofun
  · rename_i r _
    cases r with
    | cmd =>
      change NotRefused (cmdIssue v s)
      unfold cmdIssue
      split
      · exact exec_notRefused _ s
      · nofun
    | _ => nofun
  · nofun

theorem hostEdge_notRefused (s : State) : NotRefused (hostEdge s) := by
  unfold hostEdge
  split
  · nofun
  · nofun
  · split <;> nofun
  · exact memWrite_notRefused _ _ _ _

theorem step_notRefused (s : State) : NotRefused (step s) := by
  unfold step clockEdge
  split
  · nofun
  · exact hostEdge_notRefused _
  · exact hostEdge_notRefused _

/-! ## Reserved bits -/

/-- A field under zeros (10_state.md R38). -/
theorem setWidth_eq_zero_append {n : Nat} (m : Nat) (x : BitVec n) : x.setWidth (m + n) = 0#m ++ x := by
  apply BitVec.eq_of_toNat_eq
  rw [BitVec.toNat_setWidth_of_le (Nat.le_add_left n m), BitVec.toNat_append]
  simp

/-! ## An edge with `rst` high -/

theorem step_of_rst_high {s : State} {r : List Bool} (h : s.rstIn = true :: r) :
    step s = .next (resetEdge { s with rstIn := r }) := by
  simp only [step, clockEdge, h]

/-- STATUS reads 0 after reset: no field of it is set (10_state.md R43), the queue being shorter than Q_DEPTH. -/
theorem statusWord_resetEdge {s : State} (h : 0 < s.params.qDepth) : statusWord (resetEdge s) = 0#32 := by
  have hqfull : qfull (resetEdge s) = false := beq_false_of_ne (Nat.ne_of_lt h)
  rw [statusWord, hqfull]
  change 0#15 ++ 0#1 ++ 0#8 ++ 0#4 ++ 0#1 ++ 0#1 ++ 0#1 ++ 0#1 = 0#32
  decide

end Sys2Proof.Machine

namespace Sys2Proof.Proofs

open Sys2Proof.Machine

/-- Settles O4: `step_of_cmd_write` issues the word, which decodes. -/
theorem stepRunsThePresentedCommand : Obligations.StepRunsThePresentedCommand := by
  unfold Obligations.StepRunsThePresentedCommand
  exact fun s w i q hrst hslot hdecode => (step_of_cmd_write hrst hslot).trans (cmdIssue_of_decode_ok hdecode _)

/-- Settles O5: `step_of_cmd_write` issues the word, which the decoder refuses. -/
theorem stepRejectsAnIllegalCommandWord : Obligations.StepRejectsAnIllegalCommandWord := by
  unfold Obligations.StepRejectsAnIllegalCommandWord
  intro s w q hrst hslot hillegal
  obtain ⟨e, hdecode⟩ := commandWordOk_eq_false_iff.mp hillegal
  exact (step_of_cmd_write hrst hslot).trans (cmdIssue_of_decode_error hdecode _)

/-- Settles O6: the edge is `resetEdge`, whose registers are those of `State.reset`. -/
theorem resetEdgeRestoresResetValues : Obligations.ResetEdgeRestoresResetValues := by
  unfold Obligations.ResetEdgeRestoresResetValues
  intro s r hrst
  refine ⟨_, step_of_rst_high hrst, rfl, rfl, rfl, rfl, rfl, rfl, rfl, rfl, rfl, rfl, rfl, rfl, rfl, rfl, rfl, rfl, rfl,
    rfl, rfl, rfl, rfl, fun hdepth => ?_, memRead_offset _ .id⟩
  exact (memRead_offset _ .status).trans (congrArg Except.ok (statusWord_resetEdge hdepth))

/-- Settles O7: the Tick advances the transmission, and neither a command nor another transaction touches an active
engine's frame and clock. -/
theorem onlyResetStopsATransmission : Obligations.OnlyResetStopsATransmission := by
  unfold Obligations.OnlyResetStopsATransmission
  intro s t o f r k h hrst heng hclock
  have htick : (tick s).eng = .active o f r (k + 1) := by rw [tick_of_active heng, if_pos hclock]
  obtain ⟨-, w, -, hissue⟩ | hframe := step_low_cases hrst h
  · have hcommand := (atCommand_frame s).eng.trans htick
    rw [cmdIssue_eng_of_active hissue (by simp [hcommand]), hcommand]
  · rw [hframe.eng, htick]

/-- Settles O8: a check rejects, a read that fails faults, and what runs after them answers a next state. -/
theorem stepsAreNeverRefused : Obligations.StepsAreNeverRefused := by
  unfold Obligations.StepsAreNeverRefused
  exact step_notRefused

/-- Settles O9: neither reset, nor the Tick, nor a command, nor another transaction writes the parameters. -/
theorem stepsKeepTheParameters : Obligations.StepsKeepTheParameters := by
  unfold Obligations.StepsKeepTheParameters
  intro s t h
  obtain ⟨r, -, rfl⟩ | ⟨hrst, -⟩ := step_cases h
  · rfl
  · obtain ⟨-, w, -, hissue⟩ | hframe := step_low_cases hrst h
    · rw [(cmdIssue_frame hissue).params, (atCommand_frame s).params, tick_params]
    · rw [hframe.params, tick_params]

/-- Settles O26: such an edge is within `TransactionFrame`, and the Tick keeps these fields. -/
theorem onlyCommandsWriteStatusAndResults : Obligations.OnlyCommandsWriteStatusAndResults := by
  unfold Obligations.OnlyCommandsWriteStatusAndResults
  intro s t h hrst hslot
  have hframe := step_frame_of_no_command hrst h hslot
  exact ⟨hframe.errcode.trans (tick_errcode s), hframe.matchBit.trans (tick_matchBit s),
    hframe.res0.trans (tick_res0 s), hframe.res1.trans (tick_res1 s), hframe.res2.trans (tick_res2 s)⟩

/-- Settles O50: the edge is a Tick and the presented slot; what is no command is within `TransactionFrame`, and the
output is a function of the engine and the parameters. -/
theorem hostWritesNeverDisturbATransmission : Obligations.HostWritesNeverDisturbATransmission := by
  unfold Obligations.HostWritesNeverDisturbATransmission
  intro s hrst
  refine ⟨?_, step_of_nil hrst, fun q => step_of_idle hrst, fun addr size v q => step_of_write hrst,
    fun t h hslot => ?_⟩
  · rw [tick_setRst]
    exact congrArg (fun u : State => { u with rstIn := s.rstIn.tail }) (tick_frame s)
  · have hframe := step_frame_of_no_command hrst h hslot
    refine ⟨hframe.eng, hframe.queue, hframe.framesSent, ?_⟩
    rw [irOut, irOut, hframe.eng, hframe.params]

/-- Settles O51: each address is its register's own offset. -/
theorem registerReads : Obligations.RegisterReads := by
  unfold Obligations.RegisterReads
  intro s
  refine ⟨memRead_offset s .id, memRead_offset s .cmd, memRead_offset s .framesSent, memRead_offset s .src,
    memRead_offset s .len, memRead_offset s .dst, memRead_offset s .plid, ?_, ?_, ?_, memRead_offset s .res0,
    memRead_offset s .res1, memRead_offset s .res2⟩
  · exact (memRead_offset s .frm).trans (congrArg Except.ok (setWidth_eq_zero_append 15 s.frm))
  · exact (memRead_offset s .repeatCount).trans (congrArg Except.ok (setWidth_eq_zero_append 16 s.repeatCount))
  · exact (memRead_offset s .index).trans (congrArg Except.ok (setWidth_eq_zero_append 16 s.index))

/-- Settles O52: each address is its register's own offset; a stored field takes the low bits of the value. -/
theorem registerWrites : Obligations.RegisterWrites := by
  unfold Obligations.RegisterWrites
  intro s v
  refine ⟨fun a ha => ?_, memWrite_offset .src v s, memWrite_offset .len v s, memWrite_offset .dst v s,
    memWrite_offset .plid v s, ?_, ?_, ?_⟩
  · simp only [List.mem_cons, List.not_mem_nil, or_false] at ha
    obtain rfl | rfl | rfl | rfl | rfl | rfl := ha
    · exact memWrite_offset .id v s
    · exact memWrite_offset .status v s
    · exact memWrite_offset .framesSent v s
    · exact memWrite_offset .res0 v s
    · exact memWrite_offset .res1 v s
    · exact memWrite_offset .res2 v s
  · rw [← BitVec.setWidth_eq_extractLsb' (by decide)]
    exact memWrite_offset .frm v s
  · rw [← BitVec.setWidth_eq_extractLsb' (by decide)]
    exact memWrite_offset .repeatCount v s
  · rw [← BitVec.setWidth_eq_extractLsb' (by decide)]
    exact memWrite_offset .index v s

/-- Settles O56: the read is made on the ticked state, and an edge whose read fails answers no next state. -/
theorem readsHaveNoSideEffects : Obligations.ReadsHaveNoSideEffects := by
  unfold Obligations.ReadsHaveNoSideEffects
  intro s addr size q hrst hslot
  refine ⟨fun t h => ?_, fun v => step_of_read_ok hrst hslot, fun e => step_of_read_error hrst hslot⟩
  cases hread : memRead (tick s) addr size with
  | ok v =>
    rw [step_of_read_ok hrst hslot hread] at h
    cases h
    exact ⟨v, rfl, rfl⟩
  | error e =>
    rw [step_of_read_error hrst hslot hread] at h
    cases h

end Sys2Proof.Proofs
end

section
/-! 10_state.md R39 to R41, 60_exceptions.md R220, 20_memory.md R52: the invariants. They are one condition on RAM, one
on the engine over the queue, and one on ERRCODE; each is kept by the operations that write its part of the state. -/

namespace Sys2Proof.Machine

/-! ## The three parts of the invariant -/

/-- RAM's canonical form, inside RAM (20_memory.md R52; log 4). -/
structure RamInv (p : Params) (m : Memory) : Prop where
  canonical : m.wf = true
  inRange : m.below p.memSize = true

/-- The invariants of the engine and the queue (10_state.md R39 to R41). -/
structure EngineInv (p : Params) (e : Engine) (q : List QEntry) : Prop where
  idleEmpty : e = .idle → q = []
  queuedIsHead : ∀ f r t, e = .active .queued f r t → ∃ q', q = ⟨f, r⟩ :: q'
  position : ∀ o f r t, e = .active o f r t → t < duration p f r
  queueBound : q.length ≤ p.qDepth
  engFrame : ∀ o f r t, e = .active o f r t → frameOk p f
  queueFrames : ∀ x ∈ q, frameOk p x.frame

theorem State.inv_iff (s : State) :
    s.Inv ↔ RamInv s.params s.ram ∧ EngineInv s.params s.eng s.queue ∧ s.errcode.toNat ≤ 6 := by
  constructor
  · rintro ⟨hwf, hbelow, hidle, hhead, hpos, hbound, hframe, hframes, herr⟩
    exact ⟨⟨hwf, hbelow⟩, ⟨hidle, hhead, hpos, hbound, hframe, hframes⟩, herr⟩
  · rintro ⟨⟨hwf, hbelow⟩, ⟨hidle, hhead, hpos, hbound, hframe, hframes⟩, herr⟩
    exact ⟨hwf, hbelow, hidle, hhead, hpos, hbound, hframe, hframes, herr⟩

theorem RamInv.writeBytes {p : Params} {m : Memory} {a : Nat} {l : List Byte} (h : RamInv p m)
    (hfits : a + l.length ≤ p.memSize) : RamInv p (m.writeBytes a l) :=
  ⟨Memory.writeBytes_keeps_wf a l h.canonical, Memory.writeBytes_keeps_below h.inRange hfits⟩

/-! ## The engine's steps -/

theorem EngineInv.idle (p : Params) : EngineInv p .idle [] :=
  ⟨fun _ => rfl, nofun, nofun, Nat.zero_le _, nofun, nofun⟩

/-- An engine active inside its waveform with a legal frame, at the head of the queue if the frame is a queued one. -/
theorem EngineInv.active {p : Params} {o : Origin} {f : List Byte} {r : Half} {t : Nat} {q : List QEntry}
    (hhead : o = .queued → ∃ q', q = ⟨f, r⟩ :: q') (hpos : t < duration p f r) (hframe : frameOk p f)
    (hbound : q.length ≤ p.qDepth) (hframes : ∀ x ∈ q, frameOk p x.frame) : EngineInv p (.active o f r t) q := by
  refine ⟨nofun, ?_, ?_, hbound, ?_, hframes⟩
  · rintro _ _ _ ⟨⟩
    exact hhead rfl
  · rintro _ _ _ _ ⟨⟩
    exact hpos
  · rintro _ _ _ _ ⟨⟩
    exact hframe

/-- A start from legal entries that fit the queue. -/
theorem EngineInv.of_startsFrom {p : Params} {e : Engine} {q q' : List QEntry} (h : StartsFrom p q e q')
    (hbound : q.length ≤ p.qDepth) (hframes : ∀ x ∈ q, frameOk p x.frame) : EngineInv p e q' := by
  obtain ⟨rfl, rfl⟩ | ⟨x, rest, rfl, rfl, hpos, hsuffix⟩ := h
  · exact .idle p
  · have hmem : ∀ y ∈ x :: rest, frameOk p y.frame := fun y hy => hframes y (hsuffix.subset hy)
    exact .active (fun _ => ⟨rest, rfl⟩) hpos (hmem x List.mem_cons_self) (hsuffix.length_le.trans hbound) hmem

theorem EngineInv.complete {s : State} {o : Origin} (hbound : (releaseHead o s.queue).length ≤ s.params.qDepth)
    (hframes : ∀ x ∈ releaseHead o s.queue, frameOk s.params x.frame) :
    EngineInv s.params (complete o s).eng (complete o s).queue :=
  .of_startsFrom (complete_cases o s) hbound hframes

theorem EngineInv.tick {s : State} (h : EngineInv s.params s.eng s.queue) :
    EngineInv s.params (tick s).eng (tick s).queue := by
  obtain ⟨-, htick⟩ | ⟨o, f, r, t, heng, ⟨hlt, htick⟩ | ⟨-, htick⟩⟩ := tick_cases s
  · rwa [htick]
  · rw [htick]
    exact .active (fun ho => h.queuedIsHead f r t (ho ▸ heng)) hlt (h.engFrame o f r t heng) h.queueBound h.queueFrames
  · rw [htick]
    have hsuffix := releaseHead_suffix o s.queue
    exact .complete (hsuffix.length_le.trans h.queueBound) fun x hx => h.queueFrames x (hsuffix.subset hx)

/-- TX launches a legal frame, and what waits in the queue stays. -/
theorem EngineInv.launch_direct {s : State} {f : List Byte} (r : Half) (h : EngineInv s.params s.eng s.queue)
    (hframe : frameOk s.params f) :
    EngineInv s.params (launch .direct f r s).eng (launch .direct f r s).queue := by
  obtain ⟨-, hlaunch⟩ | ⟨hpos, hlaunch⟩ := launch_cases .direct f r s <;> rw [hlaunch]
  · exact .complete h.queueBound h.queueFrames
  · exact .active nofun hpos hframe h.queueBound h.queueFrames

/-- QUEUE appends behind an active engine, and starts the frame on an idle one. -/
theorem EngineInv.queuedState {s : State} {f : List Byte} (h : EngineInv s.params s.eng s.queue)
    (hroom : s.queue.length ≠ s.params.qDepth) (hframe : frameOk s.params f) :
    EngineInv s.params (queuedState f s).eng (queuedState f s).queue := by
  have hbound : (s.queue ++ [QEntry.mk f s.repeatCount]).length ≤ s.params.qDepth := by
    have := h.queueBound
    rw [List.length_append, List.length_singleton]
    omega
  have hframes : ∀ x ∈ s.queue ++ [QEntry.mk f s.repeatCount], frameOk s.params x.frame :=
    List.forall_mem_append.mpr ⟨h.queueFrames, List.forall_mem_singleton.mpr hframe⟩
  cases heng : s.eng with
  | idle =>
    have hempty := h.idleEmpty heng
    rw [queuedState_of_idle_nil heng hempty]
    obtain ⟨-, hlaunch⟩ | ⟨hpos, hlaunch⟩ :=
      launch_cases .queued f s.repeatCount { s with queue := [⟨f, s.repeatCount⟩] } <;> rw [hlaunch]
    · exact .complete (s := { s with queue := [⟨f, s.repeatCount⟩] }) (o := .queued) (Nat.zero_le _)
        (List.forall_mem_nil _)
    · rw [hempty] at hbound hframes
      exact .active (fun _ => ⟨[], rfl⟩) hpos hframe hbound hframes
  | active o g r t =>
    rw [queuedState_of_active (by simp [heng])]
    dsimp only
    rw [heng]
    refine .active (fun ho => ?_) (h.position o g r t heng) (h.engFrame o g r t heng) hbound hframes
    obtain ⟨q', hq⟩ := h.queuedIsHead g r t (ho ▸ heng)
    exact ⟨q' ++ [⟨f, s.repeatCount⟩], by rw [hq]; rfl⟩

/-! ## Commands and edges -/

theorem CommandEffect.ramInv {s t : State} {i : Instr} (h : CommandEffect s i t) (hs : RamInv s.params s.ram) :
    RamInv s.params t.ram := by
  obtain hram | ⟨-, l, hram, hfits, -⟩ := h.ram <;> rw [hram]
  · exact hs
  · exact hs.writeBytes hfits

theorem CommandEffect.engineInv {s t : State} {i : Instr} (h : CommandEffect s i t)
    (hs : EngineInv s.params s.eng s.queue) : EngineInv s.params t.eng t.queue := by
  cases h with
  | launched hframe => exact EngineInv.launch_direct (s := accept 0#32 0#32 0#32 s) _ hs hframe
  | queued hframe hroom => exact hs.queuedState hroom hframe
  | _ => exact hs

theorem RejectCode.code_le (c : RejectCode) : c.code.toNat ≤ 6 := by cases c <;> decide

theorem CommandEffect.errcode_le {s t : State} {i : Instr} (h : CommandEffect s i t) : t.errcode.toNat ≤ 6 := by
  cases h with
  | rejected c => exact c.code_le
  | launched => rw [launch_errcode]; exact Nat.zero_le 6
  | _ => exact Nat.zero_le 6

theorem cmdIssue_keeps_inv {w : Word} {s t : State} (h : cmdIssue w s = .next t) (hs : s.Inv) : t.Inv := by
  rw [State.inv_iff] at hs ⊢
  obtain ⟨hram, heng, -⟩ := hs
  obtain ⟨i, -, heffect⟩ | ⟨-, rfl⟩ := cmdIssue_effect h
  · rw [heffect.frame.params]
    exact ⟨heffect.ramInv hram, heffect.engineInv heng, heffect.errcode_le⟩
  · exact ⟨hram, heng, RejectCode.opcode.code_le⟩

theorem tick_keeps_inv {s : State} (hs : s.Inv) : (tick s).Inv := by
  rw [State.inv_iff] at hs ⊢
  obtain ⟨hram, heng, herr⟩ := hs
  rw [tick_params, tick_ram, tick_errcode]
  exact ⟨hram, heng.tick, herr⟩

theorem TransactionFrame.keeps_inv {u t : State} (h : TransactionFrame u t) (hu : u.Inv) : t.Inv := by
  rw [State.inv_iff] at hu ⊢
  obtain ⟨hram, heng, herr⟩ := hu
  rw [h.params, h.eng, h.queue, h.errcode]
  refine ⟨?_, heng, herr⟩
  obtain hsame | ⟨a, l, hwritten, hfits⟩ := h.ram
  · rwa [hsame]
  · rw [hwritten]
    exact hram.writeBytes hfits

theorem resetEdge_keeps_inv {s : State} (r : List Bool) (hs : s.Inv) : (resetEdge { s with rstIn := r }).Inv := by
  rw [State.inv_iff] at hs ⊢
  obtain ⟨hram, -, -⟩ := hs
  exact ⟨hram, .idle _, Nat.zero_le 6⟩

end Sys2Proof.Machine

namespace Sys2Proof.Proofs

open Sys2Proof.Machine

/-- Settles O59: nothing is written, queued or sent. -/
theorem resetMeetsTheInvariants : Obligations.ResetMeetsTheInvariants :=
  (State.inv_iff _).mpr ⟨⟨rfl, rfl⟩, .idle _, Nat.zero_le 6⟩

/-- Settles O60: an edge is a reset, or a Tick and then a command or another transaction, and each of these keeps the
invariants. -/
theorem stepKeepsTheInvariants : Obligations.StepKeepsTheInvariants := by
  unfold Obligations.StepKeepsTheInvariants
  intro s t hs h
  obtain ⟨r, -, rfl⟩ | ⟨hrst, -⟩ := step_cases h
  · exact resetEdge_keeps_inv r hs
  · obtain ⟨-, w, -, hissue⟩ | hframe := step_low_cases hrst h
    · exact cmdIssue_keeps_inv hissue ((atCommand_frame s).keeps_inv (tick_keeps_inv hs))
    · exact hframe.keeps_inv (tick_keeps_inv hs)

end Sys2Proof.Proofs
end

section
/-! 41_checksum.md R101 item 4: the CRC register shifts out its own low byte, so a list followed by its CRC leaves 0. -/

namespace Sys2Proof.Machine

/-- A step on a register whose bit 0 is clear only shifts. -/
theorem crcBit_of_even {r : Half} (h : r.getLsbD 0 = false) : crcBit r = r >>> 1 := by
  rw [crcBit, h, if_neg Bool.false_ne_true]

theorem crcBit_iterate_of_low_zero {k : Nat} {r : Half} (h : ∀ i < k, r.getLsbD i = false) :
    crcBit^[k] r = r >>> k := by
  induction k generalizing r with
  | zero => simp
  | succ k ih =>
    have hlow : ∀ i < k, (r >>> 1).getLsbD i = false := fun i hi => by
      rw [BitVec.getLsbD_ushiftRight]
      exact h _ (by omega)
    rw [Function.iterate_succ_apply, crcBit_of_even (h 0 (Nat.succ_pos k)), ih hlow, ← BitVec.shiftRight_add,
      Nat.add_comm]

/-- The register's own low byte clears it, and the eight steps then shift the high byte down. -/
theorem crcByte_low_byte (r : Half) : crcByte r (r.extractLsb' 0 8) = r >>> 8 := by
  rw [crcByte_eq_iterate, crcBit_iterate_of_low_zero]
  · ext i hi
    simp
  · intro i hi
    simp [hi]
    omega

theorem crc16_append_self (p : Params) (l : List Byte) (h : p.crcXorOut = 0#16) :
    crc16 p (l ++ [(crc16 p l).extractLsb' 0 8, (crc16 p l).extractLsb' 8 8]) = 0#16 := by
  have hhigh : (crc16 p l).extractLsb' 8 8 = (crc16 p l >>> 8).extractLsb' 0 8 := by
    ext i hi
    simp
  rw [List.append_cons, crc16_append_singleton, crc16_append_singleton, h]
  simp only [BitVec.xor_zero]
  rw [crcByte_low_byte, hhigh, crcByte_low_byte, ← BitVec.shiftRight_add]
  exact BitVec.ushiftRight_eq_zero (by decide)

/-- With no final XOR, CRC16 is a function of the bytes alone. -/
theorem crc16_of_no_xorOut {p : Params} (h : p.crcXorOut = 0#16) (l : List Byte) :
    crc16 p l = l.foldl crcByte crcInit := by
  rw [crc16, h, BitVec.xor_zero]

end Sys2Proof.Machine

namespace Sys2Proof.Proofs

open Sys2Proof.Machine

/-- Settles O30: the two CRC bytes shift the register out (`crc16_append_self`); the examples are evaluated. -/
theorem checksumOfTerminatedListIsZero : Obligations.ChecksumOfTerminatedListIsZero := by
  unfold Obligations.ChecksumOfTerminatedListIsZero
  intro p hp
  refine ⟨fun l => crc16_append_self p l hp, ?_⟩
  simp [crc16_of_no_xorOut hp, crcInit, crcByte, crcShift8, crcBit, crcPoly]

end Sys2Proof.Proofs
end

section
/-! 43_frame_builder.md R125, R127, 41_checksum.md R103: a frame that a BUILD command has stored passes CRC_CHECK; the
chunks of the data frames rebuild the buffer. -/

namespace Sys2Proof.Machine

/-! ## Checking a built frame -/

theorem memSize_le_of_wf {p : Params} (h : p.wf = true) : p.memSize ≤ 65536 := by
  have hok := memSizeOk_of_wf h
  simp only [Params.memSizeOk, List.any_eq_true, List.mem_range, beq_iff_eq] at hok
  obtain ⟨k, hk, hsize⟩ := hok
  calc p.memSize
    _ = 2 ^ (k + 6) := hsize
    _ ≤ 2 ^ 16 := Nat.pow_le_pow_right (by decide) (by omega)

/-- The state after CRC_CHECK of a terminated body: everything agrees. -/
theorem exec_crcCheck_of_terminate {s : State} {body : List Byte} (hin : inRange s.params (opSrc s) (opLen s))
    (hread : s.ram.readBytes (opSrc s) (opLen s) = .ok (terminate s.params body (frmPp16 s))) :
    exec .crcCheck s = .next (accept ((crc16 s.params body).setWidth 32) ((crc16 s.params body).setWidth 32) 1#32
      { s with matchBit := true }) := by
  have hlen : headerLen (frmPp16 s) + 2 ≤ opLen s := by
    rw [← Memory.readBytes_length hread, terminate_length, frameLen]
    omega
  have hheader : headerLen (frmPp16 s) = 0 ∨ (if frmPp16 s then pp16Header else []) = pp16Header := by
    cases frmPp16 s
    · exact .inl rfl
    · exact .inr rfl
  have hhdr : (if frmPp16 s then pp16Header else []).length = headerLen (frmPp16 s) := by
    cases frmPp16 s <;> rfl
  have htrailer :
      (crc16 s.params body).extractLsb' 8 8 ++ (crc16 s.params body).extractLsb' 0 8 = crc16 s.params body :=
    BitVec.extractLsb'_append_extractLsb'
  rw [exec_crcCheck_of_readBytes hlen hin hread, terminate, halfBytes, crcChecked_frame _ _ _ hhdr, htrailer,
    if_pos hheader, decide_eq_true ⟨hheader, rfl⟩]

/-- An accepted BUILD command has stored a terminated body inside RAM. -/
theorem exec_build_cases {i : Instr} {s t : State} (hi : bodyLength s i ≠ none) (h : exec i s = .next t)
    (ht : t.errcode = 0#4) :
    ∃ body r1 r2, inRange s.params (opDst s) (frameLen body.length (frmPp16 s)) ∧ t = frameStored body r1 r2 s := by
  cases exec_effect h with
  | rejected c => exact absurd ht c.code_ne_zero
  | @framed _ body r1 r2 _ hfits => exact ⟨body, r1, r2, hfits, rfl⟩
  | _ => exact absurd rfl hi

/-- R127: the frame stored at DST, checked there with its length, passes. -/
theorem exec_crcCheck_of_frameStored {s : State} {body : List Byte} {r1 r2 : Word} (hp : s.params.wf = true)
    (hfits : inRange s.params (opDst s) (frameLen body.length (frmPp16 s))) :
    let t := frameStored body r1 r2 s
    let c := (crc16 s.params body).setWidth 32
    exec .crcCheck { t with src := t.dst, len := t.res0 } =
      .next (accept c c 1#32 { t with src := t.dst, len := t.res0, matchBit := true }) := by
  have hsize := memSize_le_of_wf hp
  have hlength : (countWord (terminate s.params body (frmPp16 s)).length).toNat =
      (terminate s.params body (frmPp16 s)).length := by
    rw [countWord, BitVec.toNat_ofNat, Nat.mod_eq_of_lt]
    rw [terminate_length]
    unfold inRange at hfits
    omega
  intro t c
  refine exec_crcCheck_of_terminate (s := { t with src := t.dst, len := t.res0 }) ?_ ?_
  · change s.dst.toNat + (countWord _).toNat ≤ s.params.memSize
    rw [hlength, terminate_length]
    exact hfits
  · change (s.ram.writeBytes (opDst s) _).readBytes (opDst s) (countWord _).toNat = _
    rw [hlength]
    exact Memory.readBytes_writeBytes_same ..

/-! ## Chunks -/

/-- The cut at the end of the buffer is made by `take` itself. -/
theorem take_chunkCount (l : List Byte) (i : Nat) :
    (l.drop (20 * i)).take (chunkCount l.length i) = (l.drop (20 * i)).take 20 := by
  rw [chunkCount, dataChunk, ← List.length_drop, ← List.take_eq_take_min]

theorem flatMap_chunks (l : List Byte) (k : Nat) :
    (List.range k).flatMap (fun i => (l.drop (20 * i)).take (chunkCount l.length i)) = l.take (20 * k) := by
  induction k with
  | zero => rfl
  | succ k ih =>
    rw [List.range_succ, List.flatMap_append, ih, List.flatMap_singleton, take_chunkCount, Nat.mul_succ, List.take_add]

theorem le_chunkFrames (b : Nat) : b ≤ 20 * chunkFrames b := by
  unfold chunkFrames dataChunk
  omega

theorem lt_chunkFrames_iff (b i : Nat) : i < chunkFrames b ↔ 1 ≤ chunkCount b i ∧ chunkCount b i ≤ 20 := by
  unfold chunkFrames chunkCount dataChunk
  omega

end Sys2Proof.Machine

namespace Sys2Proof.Proofs

open Sys2Proof.Machine

/-- Settles O31: an accepted BUILD command has stored a terminated body, and the trailer that `terminate` wrote is the
CRC of that body, whatever the final XOR. -/
theorem builtFramesPassTheCheck : Obligations.BuiltFramesPassTheCheck := by
  unfold Obligations.BuiltFramesPassTheCheck
  intro i s t hp hi h ht
  have hbuild : bodyLength s i ≠ none := by obtain rfl | rfl | rfl | rfl := hi <;> nofun
  obtain ⟨body, r1, r2, hfits, rfl⟩ := exec_build_cases hbuild h ht
  exact ⟨_, exec_crcCheck_of_frameStored hp hfits, rfl, rfl, rfl, rfl⟩

/-- Settles O32: by induction the first k chunks are the first 20 k bytes, and ceil(B / 20) chunks reach the end. -/
theorem chunksInIndexOrderRebuildTheBuffer : Obligations.ChunksInIndexOrderRebuildTheBuffer := by
  unfold Obligations.ChunksInIndexOrderRebuildTheBuffer
  intro l
  refine ⟨?_, lt_chunkFrames_iff l.length⟩
  rw [flatMap_chunks, List.take_of_length_le (le_chunkFrames l.length)]

end Sys2Proof.Proofs
end

section
/-! 42_compressor.md R111, R112, R117: the code of the runs. Gamma(n) says its own length by its leading zeros, so a
code in which every run has a literal and a count can be read back; and how long the code of a list without repeats, or
of one sample repeated, is. -/

namespace Sys2Proof.Machine

/-! ## Gamma is read back -/

/-- The zeros before a count code's first 1 tell its length. -/
theorem takeWhile_gamma {n : Nat} (h : n ≠ 0) (x : List Byte) :
    (gamma n ++ x).takeWhile (· == 0x00#8) = List.replicate (Nat.size n - 1) 0x00#8 := by
  obtain ⟨digits, hdigits⟩ := List.head?_eq_some_iff.mp (head?_binaryDigits_size h)
  rw [gamma_eq h, hdigits, List.append_assoc, List.takeWhile_append_of_pos (by simp), List.cons_append,
    List.takeWhile_cons_of_neg (by decide), List.append_nil]

theorem foldl_binaryDigits_size (n : Nat) :
    (binaryDigits (Nat.size n) n).foldl (fun acc d => 2 * acc + d.toNat) 0 = n := by
  rw [foldl_binaryDigits, Nat.mul_zero, Nat.zero_add, Nat.mod_eq_of_lt (Nat.lt_size_self n)]

/-- Two streams that begin with count codes agree only if the counts and what follows agree. -/
theorem gamma_append_inj {n m : Nat} {x y : List Byte} (hn : n ≠ 0) (hm : m ≠ 0) (h : gamma n ++ x = gamma m ++ y) :
    n = m ∧ x = y := by
  have hsize : Nat.size n = Nat.size m := by
    have hzeros := congrArg (List.length ∘ List.takeWhile (· == 0x00#8)) h
    simp only [Function.comp_apply, takeWhile_gamma hn, takeWhile_gamma hm, List.length_replicate] at hzeros
    have hnpos := Nat.size_pos.mpr (Nat.pos_of_ne_zero hn)
    have hmpos := Nat.size_pos.mpr (Nat.pos_of_ne_zero hm)
    omega
  obtain ⟨hcode, hrest⟩ := List.append_inj h (by rw [length_gamma hn, length_gamma hm, hsize])
  have hdigits : binaryDigits (Nat.size n) n = binaryDigits (Nat.size m) m := by
    rw [gamma_eq hn, gamma_eq hm, hsize] at hcode
    rw [hsize]
    exact List.append_cancel_left hcode
  refine ⟨?_, hrest⟩
  rw [← foldl_binaryDigits_size n, hdigits, foldl_binaryDigits_size]

/-! ## The code with a literal and a count for every run -/

/-- The code of a run when nothing is left out. -/
def fullCode (r : Byte × Nat) : List Byte := r.1 :: gamma r.2

theorem rlePieces_of_full {p : Params} (hlit : p.rleLiteralEveryRun = true) (hunit : p.rleCodeUnitRuns = true)
    (first : Bool) (l : List (Byte × Nat)) : rlePieces p first l = l.flatMap fullCode := by
  induction l generalizing first with
  | nil => rfl
  | cons r l ih => simp [rlePieces, hlit, hunit, ih, fullCode]

theorem flatMap_fullCode_inj {l l' : List (Byte × Nat)} (hl : ∀ r ∈ l, r.2 ≠ 0) (hl' : ∀ r ∈ l', r.2 ≠ 0)
    (h : l.flatMap fullCode = l'.flatMap fullCode) : l = l' := by
  induction l generalizing l' with
  | nil =>
    cases l' with
    | nil => rfl
    | cons r' l' => cases h
  | cons r l ih =>
    cases l' with
    | nil => cases h
    | cons r' l' =>
      rw [List.forall_mem_cons] at hl hl'
      obtain ⟨hvalue, hcodes⟩ := List.cons.inj h
      obtain ⟨hcount, hrest⟩ := gamma_append_inj hl.1 hl'.1 hcodes
      rw [Prod.ext hvalue hcount, ih hl.2 hl'.2 hrest]

/-! ## Lists without repeats -/

theorem stretches_of_isChain_ne {l : List Byte} (h : l.IsChain (· ≠ ·)) : stretches l = l.map (·, 1) := by
  induction l with
  | nil => rfl
  | cons v l ih =>
    obtain ⟨hhead, htail⟩ := List.isChain_cons.mp h
    obtain ⟨n, more, hl, -⟩ | ⟨-, hcons⟩ := stretches_cons_cases v l
    · rw [ih htail] at hl
      cases l with
      | nil => cases hl
      | cons w l =>
        cases hl
        exact absurd rfl (hhead v rfl)
    · rw [hcons, ih htail, List.map_cons]

theorem splitRun_of_le {v : Byte} {n : Nat} (h1 : 1 ≤ n) (h2 : n ≤ rleMaxRun) : splitRun (v, n) = [(v, n)] := by
  rw [splitRun]
  obtain hlt | rfl := Nat.lt_or_eq_of_le h2
  · rw [Nat.div_eq_of_lt hlt, Nat.mod_eq_of_lt hlt, if_neg (Nat.ne_of_gt h1)]
    rfl
  · dsimp only
    rw [Nat.div_self h1, Nat.mod_self, if_pos rfl]
    rfl

theorem runs_of_isChain_ne {l : List Byte} (h : l.IsChain (· ≠ ·)) : runs l = l.map (·, 1) := by
  have hsplit (v : Byte) : splitRun (v, 1) = [(v, 1)] := splitRun_of_le le_rfl (by decide)
  rw [runs, stretches_of_isChain_ne h, List.flatMap_map, List.map_eq_flatMap]
  simp only [hsplit]

/-- After the first, each run of one sample takes a literal and a count as the flags say. -/
theorem length_rlePieces_units (p : Params) (l : List Byte) :
    (rlePieces p false (l.map (·, 1))).length =
      l.length * (p.rleLiteralEveryRun.toNat + p.rleCodeUnitRuns.toNat) := by
  induction l with
  | nil => simp [rlePieces]
  | cons v l ih =>
    have hgamma : (gamma 1).length = 1 := rfl
    rw [List.map_cons, rlePieces, List.length_append, ih, List.length_cons, Nat.succ_mul]
    cases p.rleLiteralEveryRun <;> cases p.rleCodeUnitRuns <;> simp [hgamma]
    all_goals omega

theorem length_rle_of_isChain_ne (p : Params) {v : Byte} {l : List Byte} (h : (v :: l).IsChain (· ≠ ·)) :
    (rle p (v :: l)).length =
      1 + p.rleCodeUnitRuns.toNat + l.length * (p.rleLiteralEveryRun.toNat + p.rleCodeUnitRuns.toNat) := by
  have hgamma : (gamma 1).length = 1 := rfl
  rw [rle, runs_of_isChain_ne h, List.map_cons, rlePieces, List.length_append, length_rlePieces_units]
  cases p.rleCodeUnitRuns <;> simp [hgamma]

/-! ## One sample repeated -/

theorem stretches_replicate (v : Byte) (n : Nat) : stretches (List.replicate (n + 1) v) = [(v, n + 1)] := by
  induction n with
  | zero => rfl
  | succ n ih => rw [List.replicate_succ, stretches, ih]; simp

theorem runs_replicate {v : Byte} {n : Nat} (h1 : 1 ≤ n) (h2 : n ≤ rleMaxRun) :
    runs (List.replicate n v) = [(v, n)] := by
  obtain ⟨m, rfl⟩ := Nat.exists_eq_add_of_le' h1
  rw [runs, stretches_replicate, List.flatMap_singleton, splitRun_of_le h1 h2]

theorem rle_replicate (p : Params) {v : Byte} {n : Nat} (h1 : 2 ≤ n) (h2 : n ≤ rleMaxRun) :
    rle p (List.replicate n v) = v :: gamma n := by
  rw [rle, runs_replicate (Nat.le_of_succ_le h1) h2]
  simp [rlePieces]
  omega

end Sys2Proof.Machine

namespace Sys2Proof.Proofs

open Sys2Proof.Machine

/-- Settles O35: the runs are read back from the code (`flatMap_fullCode_inj`), and the samples from the runs. -/
theorem fullyCodedRunsAreDecodable : Obligations.FullyCodedRunsAreDecodable := by
  unfold Obligations.FullyCodedRunsAreDecodable
  intro p l l' hlit hunit h
  have hpos (l : List Byte) : ∀ r ∈ runs l, r.2 ≠ 0 := fun r hr =>
    Nat.ne_of_gt (length_of_mem_runs r hr).1
  rw [rle, rle, rlePieces_of_full hlit hunit, rlePieces_of_full hlit hunit] at h
  rw [← flatMap_runs l, flatMap_fullCode_inj (hpos l) (hpos l') h, flatMap_runs]

/-- Settles O36, by evaluation: four runs of one sample, and one run of two. -/
theorem defaultCodeIsAmbiguous : Obligations.DefaultCodeIsAmbiguous := by
  unfold Obligations.DefaultCodeIsAmbiguous
  decide

/-- Settles O37: each sample is a run of its own (`length_rle_of_isChain_ne`). -/
theorem noRepeatsCodeLengthBySetting : Obligations.NoRepeatsCodeLengthBySetting := by
  unfold Obligations.NoRepeatsCodeLengthBySetting
  intro p l hne hchain
  obtain ⟨v, l, rfl⟩ := List.exists_cons_of_ne_nil hne
  rw [length_rle_of_isChain_ne p hchain, List.length_cons]
  refine ⟨fun hlit hunit => ?_, fun hlit hunit => ?_, fun hlit hunit => ?_, fun hlit hunit => ?_⟩
  all_goals
    rw [hlit, hunit]
    simp only [Bool.toNat_true, Bool.toNat_false]
    omega

/-- Settles O38: one run, coded as its value and Gamma(n). -/
theorem allEqualSamplesCodeInTwiceTheBitLength : Obligations.AllEqualSamplesCodeInTwiceTheBitLength := by
  unfold Obligations.AllEqualSamplesCodeInTwiceTheBitLength
  intro p v n h1 h2
  have hpos : 0 < Nat.size n := Nat.size_pos.mpr (by omega)
  rw [rle_replicate p h1 h2, List.length_cons, length_gamma (by omega)]
  omega

end Sys2Proof.Proofs
end

section
/-! 42_compressor.md R112 to R116: COMPRESS and PACK, one lemma per answer in the order of the checks, and the code run
by run. -/

namespace Sys2Proof.Machine

/-- The LENGTH check of COMPRESS and PACK passes: LEN is a nonzero multiple of 8. -/
def SampleLengthOk (s : State) : Prop := opLen s ≠ 0 ∧ opLen s % 8 = 0

theorem sample_length_check_iff (s : State) : (opLen s = 0 ∨ opLen s % 8 ≠ 0) ↔ ¬ SampleLengthOk s := by
  rw [SampleLengthOk, not_and_or, not_not]

section
variable {s : State}

theorem SampleLengthOk.length_check (h : SampleLengthOk s) : ¬ (opLen s = 0 ∨ opLen s % 8 ≠ 0) :=
  fun hbad => (sample_length_check_iff s).mp hbad h

/-! ## COMPRESS -/

theorem exec_compress_of_bad_length (h : ¬ SampleLengthOk s) : exec .compress s = reject .length s :=
  if_pos ((sample_length_check_iff s).mpr h)

theorem exec_compress_of_not_fit (hlen : SampleLengthOk s) (h : ¬ RegionsFit (opLen s) s) :
    exec .compress s = reject .range s :=
  (if_neg hlen.length_check).trans (if_pos (not_regionsFit_iff.mp h))

theorem exec_compress_of_share (hlen : SampleLengthOk s) (hfit : RegionsFit (opLen s) s)
    (hshare : RegionsShare (opLen s) s) : exec .compress s = reject .overlap s :=
  (if_neg hlen.length_check).trans <| (if_neg hfit.range_check).trans (if_pos hshare)

/-- What COMPRESS does with its samples, once its checks have passed. -/
def compressSamples (s : State) (l : List Byte) : Result :=
  if (rle s.params l).length < opLen s then
    .next (accept (countWord (roundUp8 (rle s.params l).length)) (countWord (rle s.params l).length) 1#32
      (storeBytes (opDst s)
        (rle s.params l ++ List.replicate (roundUp8 (rle s.params l).length - (rle s.params l).length) 0x00#8) s))
  else .next (accept (countWord (opLen s)) (countWord (rle s.params l).length) 0#32 (storeBytes (opDst s) l s))

theorem exec_compress_of_checks (hlen : SampleLengthOk s) (hfit : RegionsFit (opLen s) s)
    (hshare : ¬ RegionsShare (opLen s) s) :
    exec .compress s = withBytes s (opSrc s) (opLen s) (compressSamples s) :=
  (if_neg hlen.length_check).trans <| (if_neg hfit.range_check).trans (if_neg hshare)

theorem exec_compress_of_readBytes {l : List Byte} (hlen : SampleLengthOk s) (hfit : RegionsFit (opLen s) s)
    (hshare : ¬ RegionsShare (opLen s) s) (hread : s.ram.readBytes (opSrc s) (opLen s) = .ok l) :
    exec .compress s = compressSamples s l :=
  (exec_compress_of_checks hlen hfit hshare).trans (withBytes_of_ok _ hread)

/-! ## PACK -/

theorem exec_pack_of_bad_length (h : ¬ SampleLengthOk s) : exec .pack s = reject .length s :=
  if_pos ((sample_length_check_iff s).mpr h)

theorem exec_pack_of_not_fit (hlen : SampleLengthOk s) (h : ¬ RegionsFit (opLen s / 8) s) :
    exec .pack s = reject .range s :=
  (if_neg hlen.length_check).trans (if_pos (not_regionsFit_iff.mp h))

theorem exec_pack_of_share (hlen : SampleLengthOk s) (hfit : RegionsFit (opLen s / 8) s)
    (hshare : RegionsShare (opLen s / 8) s) : exec .pack s = reject .overlap s :=
  (if_neg hlen.length_check).trans <| (if_neg hfit.range_check).trans (if_pos hshare)

theorem exec_pack_of_readBytes {l : List Byte} (hlen : SampleLengthOk s) (hfit : RegionsFit (opLen s / 8) s)
    (hshare : ¬ RegionsShare (opLen s / 8) s) (hread : s.ram.readBytes (opSrc s) (opLen s) = .ok l) :
    exec .pack s =
      .next (accept (countWord (opLen s / 8)) 0#32 0#32 (storeBytes (opDst s) (packSamples l) s)) :=
  (if_neg hlen.length_check).trans <| (if_neg hfit.range_check).trans <|
    (if_neg hshare).trans (withBytes_of_ok _ hread)

end

/-! ## The code run by run -/

/-- The code of the run numbered `r.2` (R112): a literal for run 0 or every run, then a count code. -/
def codedRun (p : Params) (r : (Byte × Nat) × Nat) : List Byte :=
  (if p.rleLiteralEveryRun = true ∨ r.2 = 0 then [r.1.1] else []) ++
    (if 1 < r.1.2 ∨ p.rleCodeUnitRuns = true then gamma r.1.2 else [])

/-- The loop's flag says that no run has been coded, which is that the next one is numbered 0. -/
theorem rlePieces_eq_flatMap (p : Params) (l : List (Byte × Nat)) (k : Nat) :
    rlePieces p (k == 0) l = (l.zipIdx k).flatMap (codedRun p) := by
  induction l generalizing k with
  | nil => rfl
  | cons r l ih =>
    obtain ⟨v, n⟩ := r
    rw [rlePieces, List.zipIdx_cons, List.flatMap_cons, ← ih (k + 1), codedRun]
    simp

end Sys2Proof.Machine

namespace Sys2Proof.Proofs

open Sys2Proof.Machine

/-- Settles O17: the two answers are the branches of `compressSamples`; the loop of R112 is a concatenation over the
numbered runs (`rlePieces_eq_flatMap`). -/
theorem compressStoresTheShorterStream : Obligations.CompressStoresTheShorterStream := by
  unfold Obligations.CompressStoresTheShorterStream
  refine ⟨by decide, fun s => ⟨exec_compress_of_bad_length, exec_compress_of_not_fit, exec_compress_of_share,
    fun l hlen hfit hshare hread => ?_⟩, fun p l _ => rlePieces_eq_flatMap p (runs l) 0⟩
  have hexec := exec_compress_of_readBytes hlen hfit hshare hread
  exact ⟨fun hshort => hexec.trans (if_pos hshort), fun hlong => hexec.trans (if_neg (Nat.not_lt.mpr hlong))⟩

/-- Settles O18: `exec_pack_of_readBytes` after the three rejections. -/
theorem packStoresThePackedSamples : Obligations.PackStoresThePackedSamples := by
  unfold Obligations.PackStoresThePackedSamples
  exact ⟨by decide, fun s => ⟨exec_pack_of_bad_length, exec_pack_of_not_fit, exec_pack_of_share,
    fun _ => exec_pack_of_readBytes⟩⟩

/-- Settles O39: RES0 is the length of what was stored, which is at most N (`compressedStream_length_le`). -/
theorem compressUsesAtMostTheRawSize : Obligations.CompressUsesAtMostTheRawSize := by
  unfold Obligations.CompressUsesAtMostTheRawSize
  intro s t _ h ht
  cases exec_effect h with
  | rejected c => exact absurd ht c.code_ne_zero
  | framed hbody => cases hbody
  | @compressed l hread hlen _ =>
    have hle := compressedStream_length_le hread hlen
    have hres : (compressed l s).res0.toNat = (compressedStream s.params l).length := by
      change (countWord _).toNat = _
      rw [countWord, BitVec.toNat_ofNat, Nat.mod_eq_of_lt (hle.trans_lt s.len.isLt)]
    rw [hres]
    refine ⟨?_, hle, fun x hx _ => Memory.read_writeBytes_outside _ _ _ (.inr hx)⟩
    rw [compressedStream_length hread]
    split
    · rw [roundUp8, Nat.mul_mod_right]
    · exact hlen

end Sys2Proof.Proofs
end

section
/-! 44_ir_engine.md R187, R188, R193, 70_reset_and_hazards.md R259: ticks after one another. An active engine takes one
tick for each clock that is left, and its completion goes on with the entries that wait. -/

namespace Sys2Proof.Machine

/-! ## One transmission -/

section
variable {s : State} {o : Origin} {f : List Byte} {r : Half} {t : Nat}

theorem busy_of_active (h : s.eng = .active o f r t) : busy s = true :=
  (busy_iff s).mpr ⟨o, f, r, t, h⟩

/-- Before its last clock a transmission advances one clock a tick, and nothing else changes. -/
theorem tick_iterate_of_active (h : s.eng = .active o f r t) {k : Nat} (hk : t + k < duration s.params f r) :
    tick^[k] s = { s with eng := .active o f r (t + k) } := by
  induction k with
  | zero => rw [Function.iterate_zero_apply, Nat.add_zero, ← h]
  | succ k ih =>
    rw [Function.iterate_succ_apply', ih (by omega), tick_of_active rfl]
    exact if_pos hk

/-- `Complete` sets the engine, whatever it was. -/
theorem complete_setEng (o : Origin) (s : State) (e : Engine) : complete o { s with eng := e } = complete o s := rfl

/-- The tick after its last clock completes it. -/
theorem tick_iterate_completes (h : s.eng = .active o f r t) (ht : t < duration s.params f r) :
    tick^[duration s.params f r - t] s = complete o s := by
  obtain ⟨k, hk⟩ := Nat.exists_eq_add_of_lt ht
  have hlast : duration s.params f r - t = k + 1 := by omega
  rw [hlast, Function.iterate_succ_apply', tick_iterate_of_active h (by omega), tick_of_active rfl,
    if_neg (by dsimp only; omega), complete_setEng]

theorem busy_tick_iterate (h : s.eng = .active o f r t) {k : Nat} (hk : k < duration s.params f r - t) :
    busy (tick^[k] s) = true := by
  rw [tick_iterate_of_active h (by omega)]
  exact busy_of_active rfl

end

/-! ## What waits behind it -/

/-- The clocks that the waiting entries take. -/
def waitingClocks (p : Params) (q : List QEntry) : Nat := (q.map fun e => duration p e.frame e.repeats).sum

/-- Left to itself the engine is busy for `n` ticks, and then idle over an empty queue with FRAMES_SENT at `c`. -/
structure DrainsIn (n : Nat) (c : Word) (s : State) : Prop where
  busy : ∀ k < n, busy (tick^[k] s) = true
  eng : (tick^[n] s).eng = .idle
  queue : (tick^[n] s).queue = []
  framesSent : (tick^[n] s).framesSent = c

/-- Ticks during which the engine is busy count towards the time it takes. -/
theorem DrainsIn.after {m n : Nat} {c : Word} {s : State} (hbusy : ∀ k < m, Machine.busy (tick^[k] s) = true)
    (h : DrainsIn n c (tick^[m] s)) : DrainsIn (m + n) c s := by
  have hsplit (k : Nat) : tick^[m + k] s = tick^[k] (tick^[m] s) := by
    rw [Nat.add_comm, Function.iterate_add_apply]
  refine ⟨fun k hk => ?_, ?_, ?_, ?_⟩
  · obtain hlt | ⟨j, rfl⟩ := Nat.lt_or_ge k m |>.imp_right Nat.exists_eq_add_of_le
    · exact hbusy k hlt
    · rw [hsplit]
      exact h.busy j (by omega)
  · rw [hsplit, h.eng]
  · rw [hsplit, h.queue]
  · rw [hsplit, h.framesSent]

/-- The clocks left of a transmission come before what its completion starts. -/
theorem DrainsIn.of_complete {s : State} {o : Origin} {f : List Byte} {r : Half} {t n : Nat} {c : Word}
    (h : s.eng = .active o f r t) (ht : t < duration s.params f r) (hrest : DrainsIn n c (complete o s)) :
    DrainsIn (duration s.params f r - t + n) c s :=
  .after (fun _ => busy_tick_iterate h) (tick_iterate_completes h ht ▸ hrest)

/-- An entry of duration 0 is counted in passing; any other is sent, and its completion starts the entries behind it. -/
theorem drainsIn_startQueue (s : State) (q : List QEntry) (n : Word) :
    DrainsIn (waitingClocks s.params q) (n + BitVec.ofNat 32 q.length) (setEngine (startQueue s.params q n) s) := by
  induction q generalizing s n with
  | nil => exact ⟨nofun, rfl, rfl, (BitVec.add_zero n).symm⟩
  | cons e q ih =>
    have hcount : n + BitVec.ofNat 32 (e :: q).length = n + 1#32 + BitVec.ofNat 32 q.length := by
      rw [List.length_cons, BitVec.add_assoc, Nat.add_comm, BitVec.ofNat_add]
    have hclocks : waitingClocks s.params (e :: q) =
        duration s.params e.frame e.repeats - 0 + waitingClocks s.params q := by
      rw [waitingClocks, List.map_cons, List.sum_cons, waitingClocks, Nat.sub_zero]
    rw [hcount, hclocks, startQueue]
    split
    · rename_i hzero
      rw [hzero, Nat.zero_sub, Nat.zero_add]
      exact ih s (n + 1#32)
    · rename_i hpos
      exact .of_complete (s := setEngine (.active .queued e.frame e.repeats 0, e :: q, n) s) (o := .queued) rfl
        (Nat.pos_of_ne_zero hpos) (ih _ (n + 1#32))

theorem drainsIn_of_active {s : State} {o : Origin} {f : List Byte} {r : Half} {t : Nat} (h : s.eng = .active o f r t)
    (ht : t < duration s.params f r) :
    DrainsIn (duration s.params f r - t + waitingClocks s.params (releaseHead o s.queue))
      (s.framesSent + BitVec.ofNat 32 ((releaseHead o s.queue).length + 1)) s := by
  refine .of_complete h ht ?_
  rw [Nat.add_comm _ 1, BitVec.ofNat_add, ← BitVec.add_assoc]
  exact drainsIn_startQueue s (releaseHead o s.queue) (s.framesSent + 1#32)

/-- An accepted TX of a frame that lasts is active at its first clock. -/
theorem exec_tx_active {s u : State} {f : List Byte} (hread : s.ram.readBytes (opSrc s) (opLen s) = .ok f)
    (hpos : 0 < duration s.params f s.repeatCount) (h : exec .tx s = .next u) (hu : u.errcode = 0#4) :
    u.eng = .active .direct f s.repeatCount 0 ∧ u.queue = s.queue ∧ u.framesSent = s.framesSent ∧
      u.params = s.params := by
  obtain ⟨-, rfl⟩ | ⟨-, -, rfl⟩ | ⟨-, -, -, rfl⟩ | ⟨-, -, -, g, hg, rfl⟩ := execTx_cases h
  · cases hu
  · cases hu
  · cases hu
  · obtain rfl := Except.ok.inj (hg.symm.trans hread)
    rw [launch_of_duration_pos (s := accept 0#32 0#32 0#32 s) hpos]
    exact ⟨rfl, rfl, rfl, rfl⟩

end Sys2Proof.Machine

namespace Sys2Proof.Proofs

open Sys2Proof.Machine

/-- Settles O47: the accepted TX leaves the engine at clock 0 (`launch_of_duration_pos`); each tick advances it, and the
last one completes it over the empty queue. -/
theorem transmissionIsBusyForItsDuration : Obligations.TransmissionIsBusyForItsDuration := by
  unfold Obligations.TransmissionIsBusyForItsDuration
  intro s u f hq hread hpos h hu
  obtain ⟨heng, hempty, hsent, hparams⟩ := exec_tx_active hread hpos h hu
  rw [← hparams] at hpos ⊢
  rw [hq] at hempty
  refine ⟨fun k hk => ?_, ?_⟩
  · rw [tick_iterate_of_active heng (by omega), Nat.zero_add]
    exact ⟨rfl, rfl, hsent⟩
  · have hlast := tick_iterate_completes heng hpos
    rw [Nat.sub_zero, complete_of_nil (o := .direct) (s := u) hempty] at hlast
    rw [hlast, ← hsent]
    exact ⟨rfl, rfl, rfl⟩

/-- Settles O48: the completing tick releases the old head, if it was one, and launches the next. -/
theorem queuedFramesFollowWithoutAGap : Obligations.QueuedFramesFollowWithoutAGap := by
  unfold Obligations.QueuedFramesFollowWithoutAGap
  intro s o f r t e q heng hlast hq hpos
  have hrelease : releaseHead o s.queue = e :: q := by
    rw [hq]
    cases o <;> rfl
  rw [tick_of_active heng, if_neg (Nat.not_lt.mpr hlast), complete_of_cons hrelease,
    launch_of_duration_pos (s := counted o s) hpos, counted, hrelease]

/-- Settles O49: the transmission under way and then the queue (`drainsIn_of_active`). -/
theorem engineDrainsTheQueueInExactTime : Obligations.EngineDrainsTheQueueInExactTime := by
  unfold Obligations.EngineDrainsTheQueueInExactTime
  intro s o f r t hs heng
  have hdrains := drainsIn_of_active heng (hs.position o f r t heng)
  rw [releaseHead_eq_ite] at hdrains
  exact ⟨hdrains.busy, hdrains.eng, hdrains.queue, hdrains.framesSent⟩

end Sys2Proof.Proofs
end

section
/-! 20_memory.md R53, R56, R62, R67: host accesses to buffer RAM, and what stops at a byte that nothing has written. -/

namespace Sys2Proof.Machine

/-! ## RAM accesses -/

theorem AccessSize.bytes_pos (size : AccessSize) : 0 < size.bytes := by cases size <;> decide

section
variable {s : State} {addr : BusAddr} {size : AccessSize} (hbase : 0x10000 ≤ addr.toNat)
  (halign : addr.toNat % size.bytes = 0) (hfits : addr.toNat - 0x10000 + size.bytes ≤ s.params.memSize)
include hbase halign hfits

theorem busTarget_of_ram : busTarget s.params addr size = .ok (.ram (addr.toNat - 0x10000)) := by
  have hpos := size.bytes_pos
  unfold busTarget ramBase
  rw [if_neg (by omega), if_neg (by omega), if_neg (not_not.mpr halign), if_neg (by omega)]

theorem memWrite_of_ram (v : Word) :
    memWrite addr size v s = .next (storeBytes (addr.toNat - 0x10000) (wordBytes v size.bytes) s) := by
  rw [memWrite, busTarget_of_ram hbase halign hfits]

theorem memRead_of_ram_ok {l : List Byte} (hread : s.ram.readBytes (addr.toNat - 0x10000) size.bytes = .ok l) :
    memRead s addr size = .ok (countWord (leValue l)) := by
  simp only [memRead, busTarget_of_ram hbase halign hfits, hread]

theorem memRead_of_ram_error {e : Nat} (hread : s.ram.readBytes (addr.toNat - 0x10000) size.bytes = .error e) :
    memRead s addr size = .error (.unwrittenRam e) := by
  simp only [memRead, busTarget_of_ram hbase halign hfits, hread]

end

/-! ## Byte order -/

theorem leValue_append_singleton (l : List Byte) (b : Byte) :
    leValue (l ++ [b]) = leValue l + 2 ^ (8 * l.length) * b.toNat := by
  induction l with
  | nil => simp [leValue]
  | cons c l ih =>
    rw [List.cons_append, leValue, ih, leValue, List.length_cons, Nat.mul_succ, pow_add]
    ring

theorem wordByte_toNat (v : Word) (k : Nat) : (wordByte v k).toNat = v.toNat / 2 ^ (8 * k) % 2 ^ 8 := by
  rw [wordByte, BitVec.extractLsb'_toNat, Nat.shiftRight_eq_div_pow]

/-- The first n bytes of a word are its value modulo 2^(8n). -/
theorem leValue_wordBytes (v : Word) (n : Nat) : leValue (wordBytes v n) = v.toNat % 2 ^ (8 * n) := by
  induction n with
  | zero => simp [wordBytes, leValue, Nat.mod_one]
  | succ n ih =>
    have hsucc : wordBytes v (n + 1) = wordBytes v n ++ [wordByte v n] := by
      rw [wordBytes, List.range_succ, List.map_append, wordBytes, List.map_singleton]
    rw [hsucc, leValue_append_singleton, ih, wordBytes_length, wordByte_toNat, Nat.mul_succ, pow_add, Nat.mod_mul]

theorem getElem_wordBytes (v : Word) {n k : Nat} (h : k < (wordBytes v n).length) :
    (wordBytes v n)[k] = v.extractLsb' (8 * k) 8 := by
  simp [wordBytes, wordByte]

/-! ## Commands that read -/

section
variable {s : State} {x : Nat}

/-- The command `i` stops if `x` is in the region `[a, a + len)`: its fault names an unwritten byte at or before `x`. -/
def StopsAt (s : State) (x : Nat) (i : Instr) (a len : Nat) : Prop :=
  a ≤ x → x < a + len → ∃ e, exec i s = .fault (.unwrittenRam e) ∧ a ≤ e ∧ e ≤ x ∧ s.ram.read e = none

/-- A command that has come to read the region stops so. -/
theorem stopsAt_of_reads {i : Instr} {a len : Nat} {k : List Byte → Result} (hx : s.ram.read x = none)
    (h : exec i s = withBytes s a len k) : StopsAt s x i a len :=
  fun h1 h2 => h ▸ withBytes_unwritten k hx h1 h2

variable (hx : s.ram.read x = none)
include hx

theorem crc_stopsAt (hin : inRange s.params (opSrc s) (opLen s)) : StopsAt s x .crc (opSrc s) (opLen s) :=
  stopsAt_of_reads hx (if_neg (not_not.mpr hin))

theorem crcCheck_stopsAt (hlen : headerLen (frmPp16 s) + 2 ≤ opLen s) (hin : inRange s.params (opSrc s) (opLen s)) :
    StopsAt s x .crcCheck (opSrc s) (opLen s) :=
  stopsAt_of_reads hx ((if_neg (Nat.not_lt.mpr hlen)).trans (if_neg (not_not.mpr hin)))

theorem buildMcu_stopsAt (hfit : RegionsFit (frameLen (10 + opLen s) (frmPp16 s)) s)
    (hshare : ¬ RegionsShare (frameLen (10 + opLen s) (frmPp16 s)) s) :
    StopsAt s x .buildMcu (opSrc s) (opLen s) :=
  stopsAt_of_reads hx ((if_neg hfit.range_check).trans (if_neg hshare))

theorem buildRaw_stopsAt (hfit : RegionsFit (frameLen (6 + opLen s) (frmPp16 s)) s)
    (hshare : ¬ RegionsShare (frameLen (6 + opLen s) (frmPp16 s)) s) :
    StopsAt s x .buildRaw (opSrc s) (opLen s) :=
  stopsAt_of_reads hx ((if_neg hfit.range_check).trans (if_neg hshare))

theorem buildData_stopsAt (hchunk : dataChunk * opIndex s < opLen s) (hfit : RegionsFit (dataFrameLen s) s)
    (hshare : ¬ RegionsShare (dataFrameLen s) s) :
    StopsAt s x .buildData (opSrc s + dataChunk * opIndex s) (chunkCount (opLen s) (opIndex s)) :=
  stopsAt_of_reads hx ((if_neg (Nat.not_le.mpr hchunk)).trans ((if_neg hfit.range_check).trans (if_neg hshare)))

/-- A region that holds `x` is not empty, so the LENGTH check of COMPRESS and PACK is that of the multiple of 8. -/
theorem compress_stopsAt (hlen : opLen s % 8 = 0) (hfit : RegionsFit (opLen s) s)
    (hshare : ¬ RegionsShare (opLen s) s) : StopsAt s x .compress (opSrc s) (opLen s) := fun h1 h2 =>
  have hpos : opLen s ≠ 0 := by omega
  stopsAt_of_reads hx (exec_compress_of_checks ⟨hpos, hlen⟩ hfit hshare) h1 h2

theorem pack_stopsAt (hlen : opLen s % 8 = 0) (hfit : RegionsFit (opLen s / 8) s)
    (hshare : ¬ RegionsShare (opLen s / 8) s) : StopsAt s x .pack (opSrc s) (opLen s) := fun h1 h2 =>
  have hlegal : SampleLengthOk s := ⟨by omega, hlen⟩
  stopsAt_of_reads hx
    ((if_neg hlegal.length_check).trans ((if_neg hfit.range_check).trans (if_neg hshare))) h1 h2

theorem tx_stopsAt (hlen : opLen s ≤ s.params.maxFrame) (hin : inRange s.params (opSrc s) (opLen s))
    (hidle : s.eng = .idle) : StopsAt s x .tx (opSrc s) (opLen s) := fun h1 h2 =>
  have hlegal : FrameLengthOk s := ⟨by omega, hlen⟩
  stopsAt_of_reads hx
    ((if_neg hlegal.length_check).trans ((if_neg (not_not.mpr hin)).trans (if_neg (not_not.mpr hidle)))) h1 h2

theorem queue_stopsAt (hlen : opLen s ≤ s.params.maxFrame) (hin : inRange s.params (opSrc s) (opLen s))
    (hroom : s.queue.length ≠ s.params.qDepth) : StopsAt s x .queue (opSrc s) (opLen s) := fun h1 h2 =>
  have hlegal : FrameLengthOk s := ⟨by omega, hlen⟩
  stopsAt_of_reads hx
    ((if_neg hlegal.length_check).trans ((if_neg (not_not.mpr hin)).trans (if_neg hroom))) h1 h2

end

end Sys2Proof.Machine

namespace Sys2Proof.Proofs

open Sys2Proof.Machine

/-- Settles O55: the word's bytes are stored in order and read back as its low bytes (`leValue_wordBytes`). -/
theorem ramAccessesAreLittleEndian : Obligations.RamAccessesAreLittleEndian := by
  unfold Obligations.RamAccessesAreLittleEndian
  intro s addr size v hbase halign hfits
  have hlength := wordBytes_length v size.bytes
  refine ⟨_, memWrite_of_ram hbase halign hfits v, fun k hk => ?_, fun x hx => ?_, ?_, rfl⟩
  · have hk' : k < (wordBytes v size.bytes).length := hlength.symm ▸ hk
    rw [storeBytes_ram, Memory.read_writeBytes_inside _ _ _ hk', getElem_wordBytes]
  · exact Memory.read_writeBytes_outside _ _ _ (hlength.symm ▸ hx)
  · have hback := Memory.readBytes_writeBytes_same s.ram (addr.toNat - 0x10000) (wordBytes v size.bytes)
    rw [hlength] at hback
    rw [memRead_of_ram_ok (s := storeBytes _ _ s) hbase halign hfits hback, leValue_wordBytes]
    rfl

/-- Settles O57: a host read inside RAM and a command past its checks read their region byte by byte and stop at the
first byte that has no value; the converse is `exec_fault`. -/
theorem unwrittenBytesFault : Obligations.UnwrittenBytesFault := by
  unfold Obligations.UnwrittenBytesFault
  intro s
  refine ⟨fun x hx => ⟨fun addr size hbase halign hfits h1 h2 => ?_, crc_stopsAt hx, crcCheck_stopsAt hx,
    fun hsrc hdst => buildMcu_stopsAt hx ⟨hsrc, hdst⟩, fun hsrc hdst => buildRaw_stopsAt hx ⟨hsrc, hdst⟩,
    fun hchunk hsrc hdst => buildData_stopsAt hx hchunk ⟨hsrc, hdst⟩,
    fun hlen hsrc hdst => compress_stopsAt hx hlen ⟨hsrc, hdst⟩,
    fun hlen hsrc hdst => pack_stopsAt hx hlen ⟨hsrc, hdst⟩,
    tx_stopsAt hx, queue_stopsAt hx⟩, fun i e h => ?_⟩
  · obtain ⟨e, hread, he⟩ := Memory.readBytes_unwritten hx h1 h2
    exact ⟨e, memRead_of_ram_error hbase halign hfits hread, he⟩
  · obtain ⟨x, rfl, hx, h1, h2⟩ := exec_fault h
    refine ⟨x, rfl, hx, ?_⟩
    cases i with
    | nop | buildPing => exact absurd h2 (Nat.not_lt_zero x)
    | _ => exact ⟨h1, h2⟩

/-- Settles O58: the length is checked first; the example is evaluated. -/
theorem identifierOfABarcode : Obligations.IdentifierOfABarcode := by
  unfold Obligations.IdentifierOfABarcode
  exact ⟨fun s h => if_pos h, by decide, by decide⟩

end Sys2Proof.Proofs
end
